-- ==== Sys2Proof/Word.lean ====
section
/-! DEFINITION. The word type of the hardware: one byte. -/

namespace Sys2Proof

/-- A Program Store byte, a Data Tape cell and `outputByte` are 8 bits, unsigned (00_scope.md R7). -/
abbrev Byte := BitVec 8

end Sys2Proof
end

