-- ==== Sys2Proof/Syntax.lean ====
section
/-! DEFINITION. The instructions: one constructor for each row of spec/opcode_table.json, and the five operation classes
of 00_scope.md R2. -/

namespace Sys2Proof

/-- The operation classes of 00_scope.md R2. -/
inductive Opcode where
  | nop
  | move
  | update
  | loop
  | out
  deriving DecidableEq, Repr

/-- The sign: one bit that distinguishes the two polarities of an opcode (00_scope.md R7, R12). It selects +1 (sign 0) or
-1 (sign 1) for MOVE and UPDATE, and close (0) or open (1) for LOOP (30_encoding.md R51). -/
inductive Sign where
  /-- Sign 0. -/
  | zero
  /-- Sign 1. -/
  | one
  deriving DecidableEq, Repr

/-- One constructor for each row of spec/opcode_table.json. No instruction has an operand (30_encoding.md R51);
the default row keeps the byte it was read from, so that encoding loses nothing. -/
inductive Instr where
  /-- `>`: MOVE, sign 0 (R69). -/
  | moveRight
  /-- `<`: MOVE, sign 1 (R70). -/
  | moveLeft
  /-- `+`: UPDATE, sign 0 (R71). -/
  | increment
  /-- `-`: UPDATE, sign 1 (R72). -/
  | decrement
  /-- `[`: LOOP, sign 1, open (R73, R75). -/
  | loopOpen
  /-- `]`: LOOP, sign 0, close (R74, R76). -/
  | loopClose
  /-- `.`: OUT, sign 0 (R80). -/
  | output
  /-- `,`: a NOP (R83). -/
  | comma
  /-- `NOP.pad`: the warm-up and padding byte `0x00`, a NOP (R82). -/
  | nopPad
  /-- `NOP`: any byte that no other row matches (R52, R82). -/
  | nop (b : Byte)
  deriving DecidableEq, Repr

/-- The operation class of an instruction, the symbol column against the opcode column of 30_encoding.md R47. -/
def Instr.opcode : Instr → Opcode
  | .moveRight => .move
  | .moveLeft => .move
  | .increment => .update
  | .decrement => .update
  | .loopOpen => .loop
  | .loopClose => .loop
  | .output => .out
  | .comma => .nop
  | .nopPad => .nop
  | .nop _ => .nop

/-- The sign of an instruction, the symbol column against the sign column of 30_encoding.md R47. -/
def Instr.sign : Instr → Sign
  | .moveRight => .zero
  | .moveLeft => .one
  | .increment => .zero
  | .decrement => .one
  | .loopOpen => .one
  | .loopClose => .zero
  | .output => .zero
  | .comma => .zero
  | .nopPad => .zero
  | .nop _ => .zero

end Sys2Proof
end

