-- ==== Sys2Proof/WellFormed.lean ====
section
/-! DEFINITION. Which terms of Instr are instructions of the hardware. -/

namespace Sys2Proof

/-- The bytes that spec/opcode_table.json gives a row of their own (30_encoding.md R48, R58): the eight symbols and the
pad byte `0x00`. -/
def ownRowBytes : List Byte :=
  [0x3E, 0x3C, 0x2B, 0x2D, 0x5B, 0x5D, 0x2E, 0x2C, 0x00]

/-- The default row applies to a byte that no other row matches (30_encoding.md R47 "anything else", R58).
Every other constructor is well formed as it stands. -/
def Instr.wellFormed : Instr → Bool
  | .nop b => !ownRowBytes.contains b
  | .moveRight => true
  | .moveLeft => true
  | .increment => true
  | .decrement => true
  | .loopOpen => true
  | .loopClose => true
  | .output => true
  | .comma => true
  | .nopPad => true

end Sys2Proof
end

