-- ==== Sys2Proof/Decode.lean ====
section
/-! DEFINITION. The Decoder of 30_encoding.md R46 to R52 and R58, and the encoder written from the same table. -/

namespace Sys2Proof

/-- The opcode table (30_encoding.md R47, R58): compare the whole byte with each code, otherwise the default NOP row.
Total: no byte is illegal or reserved (R52). The byte values are ASCII codes, PRESUMED (R48, log entry 8). -/
def decodeByte (b : Byte) : Instr :=
  if b = 0x3E then .moveRight
  else if b = 0x3C then .moveLeft
  else if b = 0x2B then .increment
  else if b = 0x2D then .decrement
  else if b = 0x5B then .loopOpen
  else if b = 0x5D then .loopClose
  else if b = 0x2E then .output
  else if b = 0x2C then .comma
  else if b = 0x00 then .nopPad
  else .nop b

/-- `decode(b)` of 30_encoding.md R47: the Decoder's outputs `op` and `sign` for its one 8-bit input (R49), with the
source's default case `(NOP, 0)`. Combinational: no state, no side effect (R50). -/
def decodeOp (b : Byte) : Opcode × Sign :=
  if b = 0x3E then (.move, .zero)
  else if b = 0x3C then (.move, .one)
  else if b = 0x2B then (.update, .zero)
  else if b = 0x2D then (.update, .one)
  else if b = 0x5D then (.loop, .zero)
  else if b = 0x5B then (.loop, .one)
  else if b = 0x2E then (.out, .zero)
  else (.nop, .zero)

/-- The 3-bit code of the Decoder output `op` (30_encoding.md R49; DESIGN CHOICE of the spec, D10, log entry 14). -/
def Opcode.code : Opcode → BitVec 3
  | .nop => 0b000
  | .move => 0b001
  | .update => 0b010
  | .loop => 0b011
  | .out => 0b100

/-- The 1-bit value of the Decoder output `sign` (30_encoding.md R47, R49). -/
def Sign.code : Sign → BitVec 1
  | .zero => 0
  | .one => 1

/-- Why a list of bytes holds no instruction. -/
inductive DecodeRefusal where
  /-- The list is empty. Raised by `decode` only, never by a step: a fetch always finds a byte (20_memory.md R28). -/
  | noByte
  deriving DecidableEq, Repr

/-- Decoding a byte sequence: every instruction is exactly one byte (30_encoding.md R46). Answers the first instruction
and the bytes after it. -/
def decode : List Byte → Except DecodeRefusal (Instr × List Byte)
  | [] => .error .noByte
  | b :: rest => .ok (decodeByte b, rest)

/-- The byte of an instruction, from the encoding column of 30_encoding.md R48 in binary. -/
def encodeByte : Instr → Byte
  | .increment => 0b00101011
  | .comma => 0b00101100
  | .decrement => 0b00101101
  | .output => 0b00101110
  | .moveLeft => 0b00111100
  | .moveRight => 0b00111110
  | .loopOpen => 0b01011011
  | .loopClose => 0b01011101
  | .nopPad => 0b00000000
  | .nop b => b

/-- The bytes of an instruction: one (30_encoding.md R46). -/
def encode (i : Instr) : List Byte := [encodeByte i]

/-- The instruction's byte, numbered as spec/opcode_table.json numbers its bits: bit 0 is the least significant bit of
the byte (00_scope.md R8), and bits from `nbits` up are zero. No instruction is longer than one byte (30_encoding.md R46). -/
def tableByte (nbits w : Nat) : Byte := BitVec.ofNat 8 (w % 2 ^ nbits)

/-- The instruction that the decoder reads from the instruction bits `w` of a row of spec/opcode_table.json. -/
def decodeTableWord (nbits w : Nat) : Option Instr :=
  match decode [tableByte nbits w] with
  | .ok (i, _) => some i
  | .error _ => none

end Sys2Proof
end

