-- ==== Sys2Proof/Config.lean ====
section
/-! DEFINITION. The construction parameters of 00_scope.md R6, and their values in the state that the host starts from. -/

namespace Sys2Proof

/-- The construction parameters of 00_scope.md R6 that stay fixed while the machine runs. The contents of the
Program Store and the initial Data Tape, the other two parameters, are in State. -/
structure Params where
  /-- `C`, the width of `pc` and of a Program Store address. -/
  codeAddrBits : Nat
  /-- `T`, the width of `ptr` and of a Data Tape address. -/
  tapeAddrBits : Nat
  /-- `W`, the width of the two's-complement counter `skipLevel`. -/
  skipLevelBits : Nat
  /-- `OUTPUT_BYTE_RESET`, the value of `outputByte` after reset. -/
  outputByteReset : Byte
  deriving DecidableEq, Repr

namespace Params

/-- The ranges of 00_scope.md R6: `C` and `T` are positive, `W` is at least 2. -/
abbrev Wf (p : Params) : Prop :=
  1 ≤ p.codeAddrBits ∧ 1 ≤ p.tapeAddrBits ∧ 2 ≤ p.skipLevelBits

/-- `2^C`, the number of Program Store bytes (00_scope.md R6). -/
abbrev codeSize (p : Params) : Nat := 2 ^ p.codeAddrBits

/-- `2^T`, the number of Data Tape cells (00_scope.md R6). -/
abbrev tapeSize (p : Params) : Nat := 2 ^ p.tapeAddrBits

end Params

/-- `C` of State.reset. DESIGN CHOICE (log entry 1): the spec gives no default. -/
def Config.codeAddrBits : Nat := 16

/-- `T` of State.reset. DESIGN CHOICE (log entry 1): the spec gives no default. -/
def Config.tapeAddrBits : Nat := 16

/-- The parameters of State.reset: `W = C + 1` (92_eei_decisions.md D2) and `OUTPUT_BYTE_RESET = 0x00` (D5),
the spec's defaults. DESIGN CHOICE (log entries 1, 2 and 5). -/
def Config.params : Params where
  codeAddrBits := Config.codeAddrBits
  tapeAddrBits := Config.tapeAddrBits
  skipLevelBits := Config.codeAddrBits + 1
  outputByteReset := 0x00

end Sys2Proof
end

