-- ==== Sys2Proof/Machine/State.lean ====
section
/-! DEFINITION. The state of the machine, its reset value, and the reasons a step or a construction can stop. -/

namespace Sys2Proof.Machine

/-- A memory: (address, byte) pairs, addresses strictly rising, no pair equal to what an unlisted address reads as
(`Memory.wf` in Machine/Ops.lean). Used for the Program Store and the Data Tape, two disjoint spaces (20_memory.md R26). -/
abbrev Memory := List Host.Cell

/-- The two values of `scanDirection` (00_scope.md R11, 10_state.md R16). -/
inductive Direction where
  /-- FWD: `pc` advances by +1. -/
  | fwd
  /-- BWD: `pc` advances by -1. -/
  | bwd
  deriving DecidableEq, Repr

/-- The two values of `skipMode` (10_state.md R17). -/
inductive Mode where
  /-- RUN: instructions are executed. -/
  | run
  /-- SKIP: instructions are scanned but not executed. -/
  | skip
  deriving DecidableEq, Repr

/-- The state of the machine: the seven execution registers of 10_state.md R14, the two memories of 20_memory.md R26, the
two port registers of R45, the construction parameters of 00_scope.md R6, and the reset input of
70_reset_and_hazards.md R100. `pc` and `ptr` are address registers whose width is a parameter: they are held as numbers
below `2^C` and `2^T`, and `skipLevel` as the integer its `W` bits denote (log entry 13). -/
@[ext]
structure State where
  /-- The construction parameters (00_scope.md R6); no step changes them. -/
  params : Params
  /-- The Program Store (20_memory.md R27). -/
  store : Memory
  /-- The Data Tape (20_memory.md R29). -/
  tape : Memory
  /-- The Program Store address of the byte decoded this tick (10_state.md R15). -/
  pc : Nat
  /-- The Data Tape address of the current cell (10_state.md R21). -/
  ptr : Nat
  /-- The direction in which `pc` advances (10_state.md R16). -/
  scanDirection : Direction
  /-- RUN or SKIP (10_state.md R17). -/
  skipMode : Mode
  /-- The signed nesting count (10_state.md R18). -/
  skipLevel : Int
  /-- The last byte emitted by OUT (10_state.md R19). -/
  outputByte : Byte
  /-- 1 during the tick after an executed OUT (10_state.md R20). -/
  outputValid : Bool
  /-- The data register of the Program Store port (20_memory.md R43, R45). -/
  codeQ : Byte
  /-- The data register of the Data Tape read port (20_memory.md R44, R45). -/
  tapeQ : Byte
  /-- THE MODEL'S OWN FIELD: the levels of the reset input `rst` (70_reset_and_hazards.md R100) in this tick and the
  ticks after it, this tick's first; after the end of the list `rst = 0` (log entry 12). -/
  rst : List Bool
  deriving DecidableEq, Repr

/-- Why a step stops with a fault. The core has no exception, fault or error return (60_exceptions.md R85), so there is
no reason: nobody raises a fault. Safe: the type says that no step faults. -/
inductive Fault where
  deriving DecidableEq, Repr

/-- Why the model gives no meaning. No step of this model answers any of them: they are answers of `construct`
(Machine/Image.lean), before the first tick. -/
inductive Refusal where
  /-- An instruction that the model gives no meaning yet. Raised by nobody: every instruction has its meaning. Safe. -/
  | notModelled (mnemonic : String)
  /-- Raised by `construct` for parameters outside the ranges of 00_scope.md R6. Safe. -/
  | parameterOutOfRange
  /-- Raised by `construct` for an image longer than the Program Store (30_encoding.md R56, R57). Safe. -/
  | imageTooLong
  /-- Raised by `construct` for a Program Store whose byte 0 or byte 1 does not decode to NOP (30_encoding.md R57). Safe. -/
  | warmUpNotNop
  /-- Raised by `construct` for padding that does not fit behind the image in `2^C` bytes (00_scope.md R6). Safe. -/
  | paddingTooLong
  /-- Raised by `construct` for an initial tape of more than `2^T` cells (00_scope.md R6). Safe. -/
  | tapeTooLong
  deriving DecidableEq, Repr

/-- The registers of 70_reset_and_hazards.md R98 over given parameters, Program Store and Data Tape, with the reset input
at 0 from now on. `pc`, `ptr` and `skipMode` are the source's; the other values are the spec's decisions D5 and D13
(DESIGN CHOICE, log entries 5 and 6). -/
def State.initial (p : Params) (store tape : Memory) : State where
  params := p
  store := store
  tape := tape
  pc := 0
  ptr := 0
  scanDirection := .fwd
  skipMode := .run
  skipLevel := 0
  outputByte := p.outputByteReset
  outputValid := false
  codeQ := 0x00
  tapeQ := 0x00
  rst := []

/-- The machine right after reset with nothing loaded: the registers of 70_reset_and_hazards.md R98, every Program Store
byte at the default padding `0x00` (D3, log entry 3), every cell at the default `0x00` (D4, log entry 4), and the
parameters of Config (log entries 1 and 2). -/
def State.reset : State := State.initial Config.params [] []

end Sys2Proof.Machine
end

