-- ==== Sys2Proof/Machine/Ops.lean ====
section
/-! DEFINITION. The operations that the instructions share: memory accesses, address and level arithmetic, register
updates, the commit of a tick, and the external reset. The hardware has no exception entry and no return from one
(60_exceptions.md R85, R88, R89), so none stands here. -/

namespace Sys2Proof.Machine

/-! ### Memory -/

/-- What an address that a memory does not list reads as: the default padding byte of the Program Store
(92_eei_decisions.md D3) and the default cell of the Data Tape (D4). DESIGN CHOICE (log entries 3 and 4). -/
def Memory.unlisted : Byte := 0x00

/-- The byte at an address. Reads have no side effect (20_memory.md R35). -/
def Memory.read : Memory → Nat → Byte
  | [], _ => Memory.unlisted
  | (x, b) :: m, a => if a = x then b else Memory.read m a

/-- Put a pair in front of a memory, unless its byte is what an unlisted address reads as. -/
def Memory.consCell (a : Nat) (v : Byte) (m : Memory) : Memory :=
  if v = Memory.unlisted then m else (a, v) :: m

/-- Write one byte, keeping the canonical form. -/
def Memory.write : Memory → Nat → Byte → Memory
  | [], a, v => Memory.consCell a v []
  | (x, b) :: m, a, v =>
    if a < x then Memory.consCell a v ((x, b) :: m)
    else if a = x then Memory.consCell a v m
    else (x, b) :: Memory.write m a v

/-- The canonical form: addresses strictly rising, no pair equal to what an unlisted address reads as. -/
abbrev Memory.wf (m : Memory) : Prop :=
  m.Pairwise (fun c d => c.1 < d.1) ∧ ∀ c ∈ m, c.2 ≠ Memory.unlisted

/-- Every listed address exists in a memory of `size` bytes. -/
abbrev Memory.Within (m : Memory) (size : Nat) : Prop := ∀ c ∈ m, c.1 < size

/-- The memory that holds a list of bytes from an address up. -/
def Memory.ofBytes : Nat → List Byte → Memory
  | _, [] => []
  | a, b :: bs => Memory.consCell a b (Memory.ofBytes (a + 1) bs)

/-! ### Arithmetic: +1 or -1, wrapping (40_control.md R66) -/

/-- An address of `bits` bits moved by one, modulo `2^bits`: sign 0 is +1, sign 1 is -1 (30_encoding.md R51). -/
def stepAddr (bits : Nat) (sign : Sign) (a : Nat) : Nat :=
  if sign = .one then (a + (2 ^ bits - 1)) % 2 ^ bits else (a + 1) % 2 ^ bits

/-- The integer that the low `bits` bits of `x` denote in two's complement (00_scope.md R8). -/
def wrapLevel (bits : Nat) (x : Int) : Int := x.bmod (2 ^ bits)

/-- The sign that moves an address in a scan direction: FWD is +1, BWD is -1 (10_state.md R16). -/
def Direction.sign : Direction → Sign
  | .fwd => .zero
  | .bwd => .one

/-- The binary encoding of `scanDirection` (10_state.md R16; the spec's choice D10, log entry 14). -/
def Direction.code : Direction → BitVec 1
  | .fwd => 0
  | .bwd => 1

/-- The binary encoding of `skipMode` (10_state.md R17; the spec's choice D10, log entry 14). -/
def Mode.code : Mode → BitVec 1
  | .run => 0
  | .skip => 1

namespace State

/-! ### Reads -/

/-- `MemRead(Code, a, 1)`: the Program Store byte at `a`, a C-bit address; a larger number wraps (20_memory.md R27, R28). -/
def readCode (s : State) (a : Nat) : Byte := s.store.read (a % s.params.codeSize)

/-- `MemRead(Tape, a, 1)`: the cell at `a`, a T-bit address; a larger number wraps (20_memory.md R29, R31). -/
def readTape (s : State) (a : Nat) : Byte := s.tape.read (a % s.params.tapeSize)

/-- The byte decoded this tick (40_control.md R60). -/
def fetchByte (s : State) : Byte := s.readCode s.pc

/-- The instruction executed or scanned this tick (40_control.md R59, R60). -/
def fetchInstr (s : State) : Instr := decodeByte s.fetchByte

/-! ### Register and memory updates -/

/-- The hold defaults of 40_control.md R61: every register keeps its value, and `outputValid` is cleared. -/
def holdDefaults (s : State) : State := { s with outputValid := false }

/-- Write `ptr`. -/
def setPtr (s : State) (p : Nat) : State := { s with ptr := p }

/-- `MemWrite(Tape, s.ptr, 1, v)` (20_memory.md R30). -/
def writeCell (s : State) (v : Byte) : State :=
  { s with tape := s.tape.write (s.ptr % s.params.tapeSize) v }

/-- Load `outputByte` and raise `outputValid` (44_output.md R80). -/
def latchOutput (s : State) (b : Byte) : State := { s with outputByte := b, outputValid := true }

/-- Enter SKIP mode (43_loop.md R73, R74). -/
def enterSkip (s : State) (d : Direction) (level : Int) : State :=
  { s with skipMode := .skip, scanDirection := d, skipLevel := level }

/-- Write `skipLevel`. -/
def setLevel (s : State) (level : Int) : State := { s with skipLevel := level }

/-- Leave SKIP mode (43_loop.md R77). -/
def leaveSkip (s : State) : State := { s with skipMode := .run, scanDirection := .fwd }

/-! ### The end of a tick -/

/-- The next pc of 40_control.md R63: one byte on from `s.pc` in the direction that the tick COMMITS, that of `s'`
(90_conflicts.md C1, log entry 7). -/
def nextPc (s s' : State) : Nat := stepAddr s.params.codeAddrBits s'.scanDirection.sign s.pc

/-- The commit of a tick that began in `s` and whose arm made `s'`: the next pc (40_control.md R62, R63), and the
loading of the two port registers at the clock edge, the Program Store port from `pc_next` and the Data Tape port,
write-first, from `ptr_next` (20_memory.md R43 to R45). -/
def commit (s s' : State) : State :=
  { s' with
    pc := nextPc s s'
    codeQ := s.readCode (nextPc s s')
    tapeQ := s'.readTape s'.ptr }

/-- The tick of one instruction (40_control.md R59): in RUN mode the arm made `runArm`, in SKIP mode `skipArm` (R68);
then commit. Every tick has a successor (R67). -/
def tick (s runArm skipArm : State) : Host.Outcome State Fault Refusal :=
  match s.skipMode with
  | .run => .next (commit s runArm)
  | .skip => .next (commit s skipArm)

/-! ### The reset input -/

/-- The level of the reset input this tick (70_reset_and_hazards.md R100). -/
def rstNow (s : State) : Bool := s.rst.headD false

/-- The reset input moves on to the next tick. -/
def takeRst (s : State) : State := { s with rst := s.rst.tail }

/-- The reset input with this tick's level at 0. -/
def lowRst : List Bool → List Bool
  | true :: levels => false :: levels
  | levels => levels

/-- The commit of a tick with `rst = 1` (70_reset_and_hazards.md R100): the registers of R98, `0x00` in `codeQ` and `tapeQ`,
the Data Tape and the Program Store unchanged. The spec's decision D11 (log entry 12). -/
def externalReset (s : State) : State :=
  { State.initial s.params s.store s.tape with rst := s.rst }

end State

end Sys2Proof.Machine
end

