-- ==== Sys2Proof/Machine/Operands.lean ====
section
/-! DEFINITION. The operands of an instruction: the implicit `ptr` and the cell at it, and the sign bit
(30_encoding.md R51). No instruction has an immediate, a register or an address operand. -/

namespace Sys2Proof.Machine

/-- `cell`: the Data Tape value at `ptr` at the start of the tick (40_control.md R60). -/
def State.cell (s : State) : Byte := s.readTape s.ptr

/-- `sign ? -1 : +1` on 8 bits, the step of UPDATE (20_memory.md R44, 40_control.md R66). -/
def cellDelta (sign : Sign) : Byte := if sign = .one then -1 else 1

/-- `sign ? -1 : +1` on `skipLevel`, the step of LOOP in SKIP mode (43_loop.md R75, R76). -/
def levelDelta (sign : Sign) : Int := if sign = .one then -1 else 1

/-- `skipLevel` after one LOOP byte in SKIP mode, modulo `2^W` (43_loop.md R75, R76). -/
def State.nextLevel (s : State) (sign : Sign) : Int :=
  wrapLevel s.params.skipLevelBits (s.skipLevel + levelDelta sign)

end Sys2Proof.Machine
end

