-- ==== Sys2Proof/Machine/Flags.lean ====
section
/-! DEFINITION. The hardware stores no flag and no condition code (10_state.md R22). The one condition is the zero test of
LOOP, computed during the tick and not kept. -/

namespace Sys2Proof.Machine

/-- `isZero = (cell == 0)`, combinational, from the cell read this tick (10_state.md R22). -/
def State.isZero (s : State) : Bool := s.cell == 0

end Sys2Proof.Machine
end

