-- ==== Sys2Proof/Machine/Nop.lean ====
section
/-! DEFINITION. The NOP family: `,`, `0x00` and every byte that no other row matches (45_nop.md), and the inert arm of
SKIP mode that every opcode but LOOP shares (40_control.md R64). -/

namespace Sys2Proof.Machine

/-- An arm that does nothing beyond the hold defaults (40_control.md R61): NOP in RUN mode (45_nop.md R82), and MOVE,
UPDATE, OUT and NOP in SKIP mode (40_control.md R64). -/
def inertArm (s : State) : State := s.holdDefaults

/-- `,` (45_nop.md R83): a NOP in both modes, no input. -/
def execComma (s : State) : Host.Outcome State Fault Refusal := s.tick (inertArm s) (inertArm s)

/-- The warm-up and padding byte `0x00` (45_nop.md R82). -/
def execNopPad (s : State) : Host.Outcome State Fault Refusal := s.tick (inertArm s) (inertArm s)

/-- Every other byte (45_nop.md R82, 30_encoding.md R52). -/
def execNop (s : State) : Host.Outcome State Fault Refusal := s.tick (inertArm s) (inertArm s)

end Sys2Proof.Machine
end

