-- ==== Sys2Proof/Machine/Cell.lean ====
section
/-! DEFINITION. The UPDATE family: `+` and `-` (42_cell.md). -/

namespace Sys2Proof.Machine

/-- UPDATE in RUN mode: the cell at `ptr` by one, modulo 256 (42_cell.md R71, R72). -/
def updateArm (sign : Sign) (s : State) : State := s.holdDefaults.writeCell (s.cell + cellDelta sign)

/-- `+` (42_cell.md R71). -/
def execIncrement (s : State) : Host.Outcome State Fault Refusal := s.tick (updateArm .zero s) (inertArm s)

/-- `-` (42_cell.md R72). -/
def execDecrement (s : State) : Host.Outcome State Fault Refusal := s.tick (updateArm .one s) (inertArm s)

end Sys2Proof.Machine
end

