-- ==== Sys2Proof/Machine/Loop.lean ====
section
/-! DEFINITION. The LOOP family: `[` and `]`, and the bracket-matching skip machine (43_loop.md). -/

namespace Sys2Proof.Machine

/-- `[` in RUN mode: on a zero cell, skip forward from level -1 (43_loop.md R73, 90_conflicts.md C2). -/
def openArm (s : State) : State :=
  if s.isZero then s.holdDefaults.enterSkip .fwd (-1) else s.holdDefaults

/-- `]` in RUN mode: on a non-zero cell, skip backward from level +1 (43_loop.md R74, 90_conflicts.md C2). -/
def closeArm (s : State) : State :=
  if s.isZero then s.holdDefaults else s.holdDefaults.enterSkip .bwd 1

/-- LOOP in SKIP mode: count the bracket (43_loop.md R75, R76), and end the skip when the level returns to 0 (R77). -/
def scanLoopArm (sign : Sign) (s : State) : State :=
  if s.nextLevel sign = 0 then (s.holdDefaults.setLevel (s.nextLevel sign)).leaveSkip
  else s.holdDefaults.setLevel (s.nextLevel sign)

/-- `[` (43_loop.md R73 in RUN mode, R75 and R77 in SKIP mode). -/
def execLoopOpen (s : State) : Host.Outcome State Fault Refusal := s.tick (openArm s) (scanLoopArm .one s)

/-- `]` (43_loop.md R74 in RUN mode, R76 and R77 in SKIP mode). -/
def execLoopClose (s : State) : Host.Outcome State Fault Refusal := s.tick (closeArm s) (scanLoopArm .zero s)

end Sys2Proof.Machine
end

