-- ==== Sys2Proof/Machine/Output.lean ====
section
/-! DEFINITION. The OUT family: `.` (44_output.md). -/

namespace Sys2Proof.Machine

/-- OUT in RUN mode: latch the cell and raise `outputValid` (44_output.md R80). -/
def outArm (s : State) : State := s.holdDefaults.latchOutput s.cell

/-- `.` (44_output.md R80). -/
def execOutput (s : State) : Host.Outcome State Fault Refusal := s.tick (outArm s) (inertArm s)

end Sys2Proof.Machine
end

