-- ==== Sys2Proof/Machine/Pointer.lean ====
section
/-! DEFINITION. The MOVE family: `>` and `<` (41_pointer.md). -/

namespace Sys2Proof.Machine

/-- MOVE in RUN mode: `ptr` by one, modulo `2^T` (41_pointer.md R69, R70). -/
def moveArm (sign : Sign) (s : State) : State :=
  s.holdDefaults.setPtr (stepAddr s.params.tapeAddrBits sign s.ptr)

/-- `>` (41_pointer.md R69). -/
def execMoveRight (s : State) : Host.Outcome State Fault Refusal := s.tick (moveArm .zero s) (inertArm s)

/-- `<` (41_pointer.md R70). -/
def execMoveLeft (s : State) : Host.Outcome State Fault Refusal := s.tick (moveArm .one s) (inertArm s)

end Sys2Proof.Machine
end

