-- ==== Sys2Proof/Machine/Dispatch.lean ====
section
/-! DEFINITION. One arm for each instruction (40_control.md R68); each meaning covers both modes. -/

namespace Sys2Proof.Machine

def exec (i : Instr) (s : State) : Host.Outcome State Fault Refusal :=
  match i with
  | .moveRight => Sys2Proof.Machine.execMoveRight s
  | .moveLeft => Sys2Proof.Machine.execMoveLeft s
  | .increment => Sys2Proof.Machine.execIncrement s
  | .decrement => Sys2Proof.Machine.execDecrement s
  | .loopOpen => Sys2Proof.Machine.execLoopOpen s
  | .loopClose => Sys2Proof.Machine.execLoopClose s
  | .output => Sys2Proof.Machine.execOutput s
  | .comma => Sys2Proof.Machine.execComma s
  | .nopPad => Sys2Proof.Machine.execNopPad s
  | .nop _ => Sys2Proof.Machine.execNop s

end Sys2Proof.Machine
end

