-- ==== Sys2Proof/Machine/Step.lean ====
section
/-! DEFINITION. One step of the machine: one tick. -/

namespace Sys2Proof.Machine

/-- One tick (40_control.md R59). With `rst = 1` the tick's result is discarded and the reset values are committed
(70_reset_and_hazards.md R100); otherwise the byte at `pc` is decoded and its instruction executed or scanned (R60, R68).
Each tick consumes one level of the reset input. -/
def step (s : State) : Host.Outcome State Fault Refusal :=
  match s.rstNow with
  | true => .next s.takeRst.externalReset
  | false => exec s.fetchInstr s.takeRst

/-- The host's load of one instruction byte at the address that the next step fetches from; where the reset input is 1 in
that tick it is set to 0, so that the step runs the byte. Stands for the load of a Program Store (20_memory.md R27, log entry 11). -/
def State.withFetchWord (s : State) (nbits w : Nat) : State :=
  { s with
    store := s.store.write (s.pc % s.params.codeSize) (tableByte nbits w)
    rst := lowRst s.rst }

end Sys2Proof.Machine
end

