-- ==== Sys2Proof/Machine/Image.lean ====
section
/-! DEFINITION. The Assembler and the program image (30_encoding.md R53 to R57), and the construction of a machine over an
admitted image (70_reset_and_hazards.md R98, R101). -/

namespace Sys2Proof.Machine

/-- The byte of a source symbol (30_encoding.md R48); `none` for every other character, which is a comment (R54).
The codes are ASCII, PRESUMED (log entry 8). -/
def symbolByte (c : Char) : Option Byte :=
  if c = '+' then some 0x2B
  else if c = '-' then some 0x2D
  else if c = '<' then some 0x3C
  else if c = '>' then some 0x3E
  else if c = '[' then some 0x5B
  else if c = ']' then some 0x5D
  else if c = '.' then some 0x2E
  else if c = ',' then some 0x2C
  else none

/-- `assemble(src)` of 30_encoding.md R53: two NOP bytes, then the recognised characters in their order. No other
construct is added (R55), nothing is checked and nothing is an error (R54). The warm-up byte is `0x00`, the spec's
decision D9 (log entry 9). -/
def assemble (src : List Char) : List Byte := [0x00, 0x00] ++ src.filterMap symbolByte

/-- Condition 3 of 30_encoding.md R57: bytes 0 and 1 of the Program Store decode to NOP. -/
def warmUpOk (store : Memory) : Bool :=
  (decodeOp (store.read 0)).1 == .nop && (decodeOp (store.read 1)).1 == .nop

/-- A machine at construction (70_reset_and_hazards.md R98, R101): parameters, program image, padding behind it and initial
tape, the bytes that the two lists do not reach being the defaults `0x00` (92_eei_decisions.md D3, D4). A choice that
00_scope.md R6 or 30_encoding.md R57 does not admit is refused (log entry 10). -/
def construct (p : Params) (image padding tapeInit : List Byte) : Host.Outcome State Fault Refusal :=
  if ¬ p.Wf then .refused .parameterOutOfRange
  else if p.codeSize < image.length then .refused .imageTooLong
  else if p.codeSize < image.length + padding.length then .refused .paddingTooLong
  else if p.tapeSize < tapeInit.length then .refused .tapeTooLong
  else
    let store := Memory.ofBytes 0 (image ++ padding)
    if warmUpOk store then .next (State.initial p store (Memory.ofBytes 0 tapeInit))
    else .refused .warmUpNotNop

end Sys2Proof.Machine
end

