-- ==== Sys2Proof/Machine/Ports.lean ====
section
/-! DEFINITION. The outputs of the core (60_exceptions.md R92, R109) and its port-level realisation (20_memory.md R43 to
R45): the Control Unit written once over the Decoder's outputs, as 40_control.md section 5 consolidates it, driving the
two synchronous memories. The normative step is the tick function (Machine/Step.lean, 92_eei_decisions.md D16); that the
two agree is stated in Certificates/Slice0/Obligations.lean. -/

namespace Sys2Proof.Machine

/-- What the collaborator sees during a tick (60_exceptions.md R92, 70_reset_and_hazards.md R109). -/
structure Observation where
  outputValid : Bool
  outputByte : Byte
  deriving DecidableEq, Repr

/-- The two output signals, each driven directly by the register of the same name (60_exceptions.md R92). -/
def State.observe (s : State) : Observation where
  outputValid := s.outputValid
  outputByte := s.outputByte

/-- The signals that the Control Unit drives to the two memories during a tick (20_memory.md R43, R44). -/
structure PortSignals where
  /-- `code_addr`, driven with `pc_next`. -/
  codeAddr : Nat
  /-- `tape_raddr`, driven with `ptr_next`. -/
  tapeRaddr : Nat
  /-- `tape_we`. -/
  tapeWe : Bool
  /-- `tape_waddr`. -/
  tapeWaddr : Nat
  /-- `tape_wdata`. -/
  tapeWdata : Byte
  deriving DecidableEq, Repr

/-- The skip registers after a LOOP byte in SKIP mode (40_control.md section 5). -/
def State.countBracket (s : State) (sign : Sign) : State :=
  let level := wrapLevel s.params.skipLevelBits (s.skipLevel + (if sign = .one then -1 else 1))
  if level = 0 then { s with skipLevel := level, skipMode := .run, scanDirection := .fwd }
  else { s with skipLevel := level }

/-- The skip registers after a LOOP byte in RUN mode (40_control.md section 5). -/
def State.testBracket (s : State) (sign : Sign) (cell : Byte) : State :=
  if sign = .one ∧ cell = 0 then { s with skipMode := .skip, scanDirection := .fwd, skipLevel := -1 }
  else if sign = .zero ∧ cell ≠ 0 then { s with skipMode := .skip, scanDirection := .bwd, skipLevel := 1 }
  else s

/-- The Control Unit's registers but `pc` after a tick that sees `op`, `sign` and `cell` (40_control.md section 5). -/
def State.controlRegs (s : State) (op : Opcode) (sign : Sign) (cell : Byte) : State :=
  let s' := { s with outputValid := false }
  match s.skipMode, op with
  | .skip, .loop => s'.countBracket sign
  | .skip, .move => s'
  | .skip, .update => s'
  | .skip, .out => s'
  | .skip, .nop => s'
  | .run, .move => { s' with ptr := stepAddr s.params.tapeAddrBits sign s.ptr }
  | .run, .update => s'
  | .run, .loop => s'.testBracket sign cell
  | .run, .out => { s' with outputByte := cell, outputValid := true }
  | .run, .nop => s'

/-- `pc_next` (40_control.md R63). -/
def State.controlPc (s s' : State) : Nat :=
  if s'.scanDirection = .bwd then stepAddr s.params.codeAddrBits .one s.pc
  else stepAddr s.params.codeAddrBits .zero s.pc

/-- The port signals of a tick (20_memory.md R43, R44); `s'` holds the next registers. -/
def State.portSignals (s s' : State) (op : Opcode) (sign : Sign) (cell : Byte) : PortSignals where
  codeAddr := s.controlPc s'
  tapeRaddr := s'.ptr
  tapeWe := s.skipMode == .run && op == .update
  tapeWaddr := s.ptr
  tapeWdata := cell + (if sign = .one then -1 else 1)

/-- The clock edge that ends a tick (20_memory.md R43, R44, 70_reset_and_hazards.md R110): the registers load, the write
port writes, then the two read ports load their data registers; the tape read is write-first. -/
def State.clockEdge (s' : State) (g : PortSignals) : State :=
  let tape' :=
    if g.tapeWe then s'.tape.write (g.tapeWaddr % s'.params.tapeSize) g.tapeWdata else s'.tape
  { s' with
    pc := g.codeAddr
    tape := tape'
    codeQ := s'.readCode g.codeAddr
    tapeQ :=
      if g.tapeWe && g.tapeWaddr == g.tapeRaddr then g.tapeWdata
      else tape'.read (g.tapeRaddr % s'.params.tapeSize) }

/-- A tick of the port-level realisation: the Decoder is fed by `codeQ`, and the cell is `tapeQ` (20_memory.md R43, R44,
40_control.md R60). -/
def State.portTick (s : State) : State :=
  let d := decodeOp s.codeQ
  let s' := s.controlRegs d.1 d.2 s.tapeQ
  s'.clockEdge (s.portSignals s' d.1 d.2 s.tapeQ)

/-- A step of the port-level realisation, with the reset input of 70_reset_and_hazards.md R100. -/
def portStep (s : State) : Host.Outcome State Fault Refusal :=
  match s.rstNow with
  | true => .next s.takeRst.externalReset
  | false => .next s.takeRst.portTick

end Sys2Proof.Machine
end

