-- ==== Sys2Proof/Safety.lean ====
section
/-! DEFINITION. The words that claims are stated in: runs, the observation of a run, reachable states, the invariants of
the machine, and balanced brackets. -/

namespace Sys2Proof.Machine

/-! ### Runs -/

/-- `n` ticks lead from `s` to `t` (00_scope.md R10). -/
def Ticks : Nat → State → State → Prop
  | 0, s, t => s = t
  | n + 1, s, t => ∃ u, step s = .next u ∧ Ticks n u t

/-- The reset input stays 0 in every tick to come (70_reset_and_hazards.md R100). -/
abbrev State.NoReset (s : State) : Prop := ∀ level ∈ s.rst, level = false

/-- The outputs of the first `n` ticks of a run (70_reset_and_hazards.md R109), oldest first. -/
def Trace : Nat → State → List Observation
  | 0, _ => []
  | n + 1, s =>
    match step s with
    | .next t => s.observe :: Trace n t
    | .fault _ => [s.observe]
    | .refused _ => [s.observe]

/-- `n` executions of one instruction lead from `s` to `t`. -/
def ExecTimes (i : Instr) : Nat → State → State → Prop
  | 0, s, t => s = t
  | n + 1, s, t => ∃ u, exec i s = .next u ∧ ExecTimes i n u t

/-- In this tick a `.` is executed: decoded in RUN mode (44_output.md R80, R81), and not discarded by a reset
(70_reset_and_hazards.md R100). -/
abbrev State.ExecutesOut (s : State) : Prop :=
  s.rstNow = false ∧ s.skipMode = .run ∧ s.fetchInstr = .output

/-- How many of the first `n` ticks of a run execute a `.` (44_output.md R81). -/
def outsExecuted : Nat → State → Nat
  | 0, _ => 0
  | n + 1, s =>
    match step s with
    | .next t => (if s.ExecutesOut then 1 else 0) + outsExecuted n t
    | .fault _ => 0
    | .refused _ => 0

/-- `n` steps of the port-level realisation lead from `s` to `t` (20_memory.md R43 to R45). -/
def PortTicks : Nat → State → State → Prop
  | 0, s, t => s = t
  | n + 1, s, t => ∃ u, portStep s = .next u ∧ PortTicks n u t

/-- The states that a run from a construction reaches, whatever the admitted image, the padding, the initial tape and the
reset input. -/
inductive Reachable : State → Prop
  | constructed {p : Params} {image padding tapeInit : List Byte} {s : State} (rst : List Bool)
      (h : construct p image padding tapeInit = .next s) : Reachable { s with rst := rst }
  | step {s t : State} (hs : Reachable s) (h : step s = .next t) : Reachable t

/-! ### Invariants -/

/-- The two invariants of 10_state.md R25. -/
abbrev State.ModeInv (s : State) : Prop :=
  (s.skipMode = .run → s.scanDirection = .fwd) ∧ (s.skipMode = .skip → s.skipLevel ≠ 0)

/-- The registers lie in their widths (10_state.md R14): `pc` in C bits, `ptr` in T bits, `skipLevel` in W bits, two's
complement (00_scope.md R8). -/
abbrev State.InWidths (s : State) : Prop :=
  s.pc < s.params.codeSize ∧ s.ptr < s.params.tapeSize ∧
    -(2 : Int) ^ (s.params.skipLevelBits - 1) ≤ s.skipLevel ∧
    s.skipLevel < (2 : Int) ^ (s.params.skipLevelBits - 1)

/-- Both memories are in canonical form and list no address outside themselves. -/
abbrev State.MemoriesWf (s : State) : Prop :=
  s.store.wf ∧ s.store.Within s.params.codeSize ∧ s.tape.wf ∧ s.tape.Within s.params.tapeSize

/-- The invariant of the machine. -/
abbrev State.Inv (s : State) : Prop :=
  s.params.Wf ∧ s.ModeInv ∧ s.InWidths ∧ s.MemoriesWf

/-- The port registers hold what the tick function reads (20_memory.md R45). -/
abbrev State.PortsLoaded (s : State) : Prop :=
  s.codeQ = s.fetchByte ∧ s.tapeQ = s.cell

/-- The port-level realisation sees in this tick what the tick function sees: the same Decoder outputs, and the same cell
unless the opcode is NOP, which reads no cell (20_memory.md R45). -/
abbrev State.PortsAgree (s : State) : Prop :=
  decodeOp s.codeQ = decodeOp s.fetchByte ∧
    ((decodeOp s.fetchByte).1 = .nop ∨ s.tapeQ = s.cell)

/-! ### Brackets -/

/-- The addresses that a scan visits, the `k`-th from `pc` in a direction (40_control.md R63). -/
def State.scanAddr (s : State) (k : Nat) : Nat :=
  match s.scanDirection with
  | .fwd => (s.pc + k) % s.params.codeSize
  | .bwd => (s.pc + k * (s.params.codeSize - 1)) % s.params.codeSize

/-- The first `n` bytes that a scan visits. -/
def State.scanned (s : State) (n : Nat) : List Byte := (List.range n).map fun k => s.readCode (s.scanAddr k)

/-- The Program Store holds `bytes` at the addresses from `a` up, and they do not run past its end (20_memory.md R27). -/
def State.HoldsAt (s : State) (a : Nat) (bytes : List Byte) : Prop :=
  a + bytes.length ≤ s.params.codeSize ∧ ∀ j (hj : j < bytes.length), s.readCode (a + j) = bytes[j]

/-- The nesting that a stretch of program adds: +1 for each `[`, -1 for each `]` (43_loop.md R78). -/
def nesting : List Byte → Int
  | [] => 0
  | b :: bs => (if b = 0x5B then 1 else if b = 0x5D then -1 else 0) + nesting bs

/-- A stretch of program whose brackets are balanced (43_loop.md R78). -/
inductive Balanced : List Byte → Prop
  | empty : Balanced []
  | plain {b : Byte} {bs : List Byte} (ho : b ≠ 0x5B) (hc : b ≠ 0x5D) (h : Balanced bs) :
      Balanced (b :: bs)
  | loop {body bs : List Byte} (hb : Balanced body) (h : Balanced bs) :
      Balanced (0x5B :: (body ++ 0x5D :: bs))

end Sys2Proof.Machine
end

