-- ==== Sys2Proof/Certificates/Slice0/Obligations.lean ====
section
/-! DEFINITION. The statements for the provers. Each says in its docstring which rule of spec/ it formalises, and where it
rests on a choice of the model or of the spec, which log entry names it. -/

open Sys2Proof Sys2Proof.Machine

/-! ### Encoding -/

/-- Decoding an encoded well-formed instruction gives it back and leaves the bytes behind it (R46, R58).
The byte values are PRESUMED ASCII (log entry 8). -/
def Obligations.DecodeOfEncodeIsTheInstruction : Prop :=
  ∀ (i : Instr) (rest : List Byte), i.wellFormed = true → decode (encode i ++ rest) = .ok (i, rest)

/-- Whatever decodes is well formed and encodes to the bytes it was read from; only the empty list does not decode
(R46, R52). -/
def Obligations.EncodeOfDecodeIsTheBytes : Prop :=
  (∀ (bytes rest : List Byte) (i : Instr),
    decode bytes = .ok (i, rest) → i.wellFormed = true ∧ encode i ++ rest = bytes) ∧
  ∀ bytes : List Byte, bytes ≠ [] → ∃ i rest, decode bytes = .ok (i, rest)

/-- Exactly seven byte values select an operation; each of the others is a NOP with sign 0 (R47, R52). The byte values are
PRESUMED ASCII (log entry 8). -/
def Obligations.ExactlySevenBytesSelectAnOperation : Prop :=
  ∀ b : Byte,
    (b ∈ [0x3E, 0x3C, 0x2B, 0x2D, 0x5B, 0x5D, 0x2E] → (decodeOp b).1 ≠ .nop) ∧
    (b ∉ [0x3E, 0x3C, 0x2B, 0x2D, 0x5B, 0x5D, 0x2E] → decodeOp b = (.nop, .zero))

/-- The binary words of R48, one for each row of the opcode table, decode to the instructions they stand for. The byte
values are PRESUMED ASCII (log entry 8). -/
def Obligations.WrittenWordsDecode : Prop :=
  decodeByte 0b00111110 = .moveRight ∧ decodeByte 0b00111100 = .moveLeft ∧
  decodeByte 0b00101011 = .increment ∧ decodeByte 0b00101101 = .decrement ∧
  decodeByte 0b01011011 = .loopOpen ∧ decodeByte 0b01011101 = .loopClose ∧
  decodeByte 0b00101110 = .output ∧ decodeByte 0b00101100 = .comma ∧
  decodeByte 0b00000000 = .nopPad ∧ decodeByte 0b01000001 = .nop 0x41

/-! ### The Assembler and construction -/

/-- The image is two `0x00` bytes and then the bytes of the recognised characters in their order; its length is 2 plus the
number of recognised characters (R53, R54, R56). The byte values are PRESUMED ASCII (log entry 8), the warm-up byte is the
spec's decision D9 (log entry 9). -/
def Obligations.ImageIsFilteredSource : Prop :=
  ∀ src : List Char,
    (assemble src).length =
      2 + src.countP (fun c => ['+', '-', '<', '>', '[', ']', '.', ','].contains c) ∧
    (assemble src).take 2 = [0x00, 0x00] ∧
    (assemble src).drop 2 =
      (src.filter fun c => ['+', '-', '<', '>', '[', ']', '.', ','].contains c).map
        fun c => BitVec.ofNat 8 c.toNat

/-- Every assembled image that fits is admitted, stands at address 0, and is followed by `0x00` padding to the end of the
store (R57). The padding is the spec's default D3 (log entry 3).
The byte values are PRESUMED ASCII (log entry 8). -/
def Obligations.AssembledImageIsAdmitted : Prop :=
  ∀ (p : Params) (src : List Char), p.Wf → (assemble src).length ≤ p.codeSize →
    ∃ s, construct p (assemble src) [] [] = .next s ∧ s.HoldsAt 0 (assemble src) ∧
      ∀ a, (assemble src).length ≤ a → a < p.codeSize → s.readCode a = 0x00

/-- Whatever padding and initial tape are given, an image longer than the store is refused; and where all three fit, an
operation at index 0 or 1 of the image and the padding behind it is refused (R56, R57; the spec's decisions D6 and D7, log
entry 10). An image shorter than 2 bytes is judged with its padding (log entry 24); a byte that neither list reaches is the
default `0x00` (D3, log entry 3), no operation. -/
def Obligations.ConstructRefusesInadmissibleImage : Prop :=
  ∀ (p : Params) (image padding tapeInit : List Byte), p.Wf →
    (p.codeSize < image.length → construct p image padding tapeInit = .refused .imageTooLong) ∧
    (image.length + padding.length ≤ p.codeSize → tapeInit.length ≤ p.tapeSize →
      ((decodeOp ((image ++ padding).getD 0 0x00)).1 ≠ .nop ∨
        (decodeOp ((image ++ padding).getD 1 0x00)).1 ≠ .nop) →
      construct p image padding tapeInit = .refused .warmUpNotNop)

/-- At construction the Program Store holds the image and then the padding, and the Data Tape the initial cells; what
neither list reaches reads as the default `0x00` (R27, R29, R98; the defaults are the spec's D3 and D4, log entries 3
and 4). -/
def Obligations.ConstructionFillsBothMemories : Prop :=
  ∀ (p : Params) (image padding tapeInit : List Byte) (s : State),
    construct p image padding tapeInit = .next s →
      (∀ a, a < p.codeSize → s.readCode a = (image ++ padding).getD a 0x00) ∧
      (∀ a, a < p.tapeSize → s.readTape a = tapeInit.getD a 0x00)

/-- R99: execution starts at Code address 0 in RUN mode with `scanDirection = FWD`, and the byte at address 0 is decoded
during tick 0. FWD is the SPEC'S DECISION D5 (log entry 5), the decoding of address 0 in tick 0 is D6 (log entry 10). -/
def Obligations.ExecutionStartsAtAddressZero : Prop :=
  ∀ (p : Params) (image padding tapeInit : List Byte) (s : State),
    construct p image padding tapeInit = .next s →
      s.pc = 0 ∧ s.skipMode = .run ∧ s.scanDirection = .fwd ∧
        step s = exec (decodeByte (s.readCode 0)) s

/-- The values of the registers at construction that are the SPEC'S DECISIONS D5 and D13 (log entries 5 and 6), not the
source's, beside the source's `ptr = 0` (R98). -/
def Obligations.ConstructionRegisterDefaults : Prop :=
  ∀ (p : Params) (image padding tapeInit : List Byte) (s : State),
    construct p image padding tapeInit = .next s →
      s.params = p ∧ s.ptr = 0 ∧ s.skipLevel = 0 ∧ s.outputValid = false ∧
        s.outputByte = p.outputByteReset ∧ s.codeQ = 0x00 ∧ s.tapeQ = 0x00

/-! ### One step -/

/-- A step that is not a reset tick runs the instruction that the byte at `pc` decodes to, on the state whose reset input
has moved on by one tick; the byte is the one that encodes that instruction (R59, R60).
The byte values are PRESUMED ASCII (log entry 8). -/
def Obligations.StepRunsTheDecodedInstruction : Prop :=
  ∀ (s : State) (i : Instr), i.wellFormed = true → s.rstNow = false →
    s.readCode s.pc = encodeByte i → step s = exec i { s with rst := s.rst.tail }

/-- R67: the tick is total and deterministic; so is every run.
That a tick with `rst = 1` has a successor is R100's, the SPEC'S DECISION D11 (log entry 12). -/
def Obligations.EveryRunExistsAndIsUnique : Prop :=
  ∀ (n : Nat) (s : State), (∃ t, Ticks n s t) ∧ ∀ t u, Ticks n s t → Ticks n s u → t = u

/-- A tick with `rst = 1` commits the reset values to every register and keeps the Data Tape and the Program Store,
whatever byte stands at `pc` (R100; the SPEC'S DECISIONS D11, D5 and D13, log entries 12, 5 and 6). -/
def Obligations.ResetTickRestartsOverTheSameTape : Prop :=
  ∀ (s : State) (levels : List Bool), s.rst = true :: levels →
    step s = .next
      { params := s.params, store := s.store, tape := s.tape, pc := 0, ptr := 0,
        scanDirection := .fwd, skipMode := .run, skipLevel := 0,
        outputByte := s.params.outputByteReset, outputValid := false, codeQ := 0x00, tapeQ := 0x00,
        rst := levels }

/-! ### The instructions: results and completion

In the statements of this section the values of the port registers `codeQ` and `tapeQ` rest on the SPEC'S DECISION D13
(log entry 6). -/

/-- `>` in RUN mode moves `ptr` one cell up modulo `2^T`; nothing else changes but `pc`, `outputValid` and the port
registers (R69, R43, R44). -/
def Obligations.MoveRightResult : Prop :=
  ∀ s : State, s.ModeInv → s.skipMode = .run →
    exec .moveRight s = .next
      { s with
        pc := (s.pc + 1) % 2 ^ s.params.codeAddrBits
        ptr := (s.ptr + 1) % 2 ^ s.params.tapeAddrBits
        outputValid := false
        codeQ := s.readCode (s.pc + 1)
        tapeQ := s.readTape (s.ptr + 1) }

/-- `<` in RUN mode moves `ptr` one cell down, cell 0 wrapping to the last (R70, R43, R44). -/
def Obligations.MoveLeftResult : Prop :=
  ∀ s : State, s.ModeInv → s.InWidths → s.skipMode = .run →
    exec .moveLeft s = .next
      { s with
        pc := (s.pc + 1) % 2 ^ s.params.codeAddrBits
        ptr := if s.ptr = 0 then 2 ^ s.params.tapeAddrBits - 1 else s.ptr - 1
        outputValid := false
        codeQ := s.readCode (s.pc + 1)
        tapeQ := s.readTape (if s.ptr = 0 then 2 ^ s.params.tapeAddrBits - 1 else s.ptr - 1) }

/-- `+` in RUN mode adds 1 to the cell at `ptr` modulo 256, and the next tick reads the new value; every other cell reads
as before, and nothing else changes but `pc`, `outputValid` and the port registers (R71, R38, R43, R44). -/
def Obligations.IncrementResult : Prop :=
  ∀ s : State, s.ModeInv → s.MemoriesWf → s.skipMode = .run →
    ∃ t, exec .increment s = .next t ∧
      t.readTape s.ptr = s.readTape s.ptr + 1 ∧
      (∀ a, a % 2 ^ s.params.tapeAddrBits ≠ s.ptr % 2 ^ s.params.tapeAddrBits →
        t.readTape a = s.readTape a) ∧
      { t with tape := s.tape } =
        { s with
          pc := (s.pc + 1) % 2 ^ s.params.codeAddrBits
          outputValid := false
          codeQ := s.readCode (s.pc + 1)
          tapeQ := s.readTape s.ptr + 1 }

/-- `-` in RUN mode subtracts 1 from the cell at `ptr` modulo 256 (R72, R38, R43, R44). -/
def Obligations.DecrementResult : Prop :=
  ∀ s : State, s.ModeInv → s.MemoriesWf → s.skipMode = .run →
    ∃ t, exec .decrement s = .next t ∧
      t.readTape s.ptr = s.readTape s.ptr - 1 ∧
      (∀ a, a % 2 ^ s.params.tapeAddrBits ≠ s.ptr % 2 ^ s.params.tapeAddrBits →
        t.readTape a = s.readTape a) ∧
      { t with tape := s.tape } =
        { s with
          pc := (s.pc + 1) % 2 ^ s.params.codeAddrBits
          outputValid := false
          codeQ := s.readCode (s.pc + 1)
          tapeQ := s.readTape s.ptr - 1 }

/-- `[` in RUN mode: on a zero cell SKIP mode is entered forward at level -1; on any other cell no register changes but
`pc`, `outputValid` and the port registers (R73). -/
def Obligations.OpenInRunMode : Prop :=
  ∀ s : State, s.ModeInv → s.skipMode = .run →
    (s.readTape s.ptr = 0 → exec .loopOpen s = .next
      { s with
        skipMode := .skip, scanDirection := .fwd, skipLevel := -1
        pc := (s.pc + 1) % 2 ^ s.params.codeAddrBits
        outputValid := false
        codeQ := s.readCode (s.pc + 1)
        tapeQ := s.readTape s.ptr }) ∧
    (s.readTape s.ptr ≠ 0 → exec .loopOpen s = .next
      { s with
        pc := (s.pc + 1) % 2 ^ s.params.codeAddrBits
        outputValid := false
        codeQ := s.readCode (s.pc + 1)
        tapeQ := s.readTape s.ptr })

/-- `]` in RUN mode: on a non-zero cell SKIP mode is entered backward at level +1, and the next byte scanned is the one
before the `]`; on a zero cell no register changes but `pc`, `outputValid` and the port registers (R74). That the entering
tick already moves backward is the SPEC'S DECISION D1 (log entry 7). -/
def Obligations.CloseInRunMode : Prop :=
  ∀ s : State, s.ModeInv → s.InWidths → s.skipMode = .run →
    (s.readTape s.ptr ≠ 0 → exec .loopClose s = .next
      { s with
        skipMode := .skip, scanDirection := .bwd, skipLevel := 1
        pc := if s.pc = 0 then 2 ^ s.params.codeAddrBits - 1 else s.pc - 1
        outputValid := false
        codeQ := s.readCode (if s.pc = 0 then 2 ^ s.params.codeAddrBits - 1 else s.pc - 1)
        tapeQ := s.readTape s.ptr }) ∧
    (s.readTape s.ptr = 0 → exec .loopClose s = .next
      { s with
        pc := (s.pc + 1) % 2 ^ s.params.codeAddrBits
        outputValid := false
        codeQ := s.readCode (s.pc + 1)
        tapeQ := s.readTape s.ptr })

/-- `[` scanned in SKIP mode decrements the level, wrapping from `-2^(W-1)` to `2^(W-1) - 1`; at level 1 it ends the skip,
and the next byte executed is the one after it, whatever the scan direction was (R75, R77; D1, log entry 7).
The signed wrap is two's complement, PRESUMED (log entry 17). -/
def Obligations.OpenInSkipMode : Prop :=
  ∀ s : State, s.params.Wf → s.InWidths → s.skipMode = .skip →
    (s.skipLevel = 1 → exec .loopOpen s = .next
      { s with
        skipMode := .run, scanDirection := .fwd, skipLevel := 0
        pc := (s.pc + 1) % 2 ^ s.params.codeAddrBits
        outputValid := false
        codeQ := s.readCode (s.pc + 1)
        tapeQ := s.readTape s.ptr }) ∧
    (s.skipLevel ≠ 1 → ∃ t, exec .loopOpen s = .next t ∧
      t = { s with
        skipLevel :=
          if s.skipLevel = -2 ^ (s.params.skipLevelBits - 1) then 2 ^ (s.params.skipLevelBits - 1) - 1
          else s.skipLevel - 1
        pc :=
          match s.scanDirection with
          | .fwd => (s.pc + 1) % 2 ^ s.params.codeAddrBits
          | .bwd => if s.pc = 0 then 2 ^ s.params.codeAddrBits - 1 else s.pc - 1
        outputValid := false
        codeQ := s.readCode t.pc
        tapeQ := s.readTape s.ptr })

/-- `]` scanned in SKIP mode increments the level, wrapping from `2^(W-1) - 1` to `-2^(W-1)`; at level -1 it ends the skip,
and the next byte executed is the one after it (R76, R77; D1, log entry 7).
The signed wrap is two's complement, PRESUMED (log entry 17). -/
def Obligations.CloseInSkipMode : Prop :=
  ∀ s : State, s.params.Wf → s.InWidths → s.skipMode = .skip →
    (s.skipLevel = -1 → exec .loopClose s = .next
      { s with
        skipMode := .run, scanDirection := .fwd, skipLevel := 0
        pc := (s.pc + 1) % 2 ^ s.params.codeAddrBits
        outputValid := false
        codeQ := s.readCode (s.pc + 1)
        tapeQ := s.readTape s.ptr }) ∧
    (s.skipLevel ≠ -1 → ∃ t, exec .loopClose s = .next t ∧
      t = { s with
        skipLevel :=
          if s.skipLevel = 2 ^ (s.params.skipLevelBits - 1) - 1 then -2 ^ (s.params.skipLevelBits - 1)
          else s.skipLevel + 1
        pc :=
          match s.scanDirection with
          | .fwd => (s.pc + 1) % 2 ^ s.params.codeAddrBits
          | .bwd => if s.pc = 0 then 2 ^ s.params.codeAddrBits - 1 else s.pc - 1
        outputValid := false
        codeQ := s.readCode t.pc
        tapeQ := s.readTape s.ptr })

/-- `.` in RUN mode loads `outputByte` with the cell at `ptr` and raises `outputValid`; nothing else changes but `pc` and
the port registers (R80). -/
def Obligations.OutputResult : Prop :=
  ∀ s : State, s.ModeInv → s.skipMode = .run →
    exec .output s = .next
      { s with
        pc := (s.pc + 1) % 2 ^ s.params.codeAddrBits
        outputByte := s.readTape s.ptr
        outputValid := true
        codeQ := s.readCode (s.pc + 1)
        tapeQ := s.readTape s.ptr }

/-- `,`, `0x00` and every other NOP byte, in RUN mode, clear `outputValid` and move `pc`; nothing else changes but the port
registers (R82, R83). -/
def Obligations.NopResult : Prop :=
  ∀ (i : Instr) (s : State), i ∈ [.comma, .nopPad] ∨ (∃ b, i = .nop b) → s.ModeInv →
    s.skipMode = .run →
    exec i s = .next
      { s with
        pc := (s.pc + 1) % 2 ^ s.params.codeAddrBits
        outputValid := false
        codeQ := s.readCode (s.pc + 1)
        tapeQ := s.readTape s.ptr }

/-- R64: in SKIP mode every instruction but `[` and `]` is inert: it clears `outputValid` and moves `pc` in the scan
direction, and nothing else changes but the port registers. That `codeQ` and `tapeQ` load is not R64's but R43's and R44's,
the SPEC'S DECISION D13 (log entry 6). -/
def Obligations.OnlyLoopActsInSkipMode : Prop :=
  ∀ (i : Instr) (s : State), i.opcode ≠ .loop → s.InWidths → s.skipMode = .skip →
    ∃ t, exec i s = .next t ∧
      t = { s with
        pc :=
          match s.scanDirection with
          | .fwd => (s.pc + 1) % 2 ^ s.params.codeAddrBits
          | .bwd => if s.pc = 0 then 2 ^ s.params.codeAddrBits - 1 else s.pc - 1
        outputValid := false
        codeQ := s.readCode t.pc
        tapeQ := s.readTape s.ptr }

/-! ### Frames -/

/-- What `>`, `<`, `.` and the NOPs leave unchanged, in both modes: every cell, the Program Store, the skip registers, and
`ptr` unless the instruction is `>` or `<`, `outputByte` unless it is `.` (R61, R69, R70, R80, R82). -/
def Obligations.FrameOfMoveOutAndNop : Prop :=
  ∀ (i : Instr) (s t : State), i.opcode = .move ∨ i.opcode = .out ∨ i.opcode = .nop →
    exec i s = .next t →
    (∀ a, t.readTape a = s.readTape a) ∧ (∀ a, t.readCode a = s.readCode a) ∧
    t.params = s.params ∧ t.rst = s.rst ∧
    t.skipMode = s.skipMode ∧ t.scanDirection = s.scanDirection ∧ t.skipLevel = s.skipLevel ∧
    (i.opcode ≠ .move → t.ptr = s.ptr) ∧ (i.opcode ≠ .out → t.outputByte = s.outputByte)

/-- What `+` and `-` leave unchanged: every register but `pc`, `outputValid` and the port registers, the Program Store, and
every cell but the one at `ptr`, which changes in RUN mode only (R30, R61, R64, R71, R72). -/
def Obligations.FrameOfUpdate : Prop :=
  ∀ (i : Instr) (s t : State), i.opcode = .update → exec i s = .next t →
    (∀ a, a % 2 ^ s.params.tapeAddrBits ≠ s.ptr % 2 ^ s.params.tapeAddrBits →
      t.readTape a = s.readTape a) ∧
    (s.skipMode = .skip → ∀ a, t.readTape a = s.readTape a) ∧
    (∀ a, t.readCode a = s.readCode a) ∧ t.params = s.params ∧ t.rst = s.rst ∧ t.ptr = s.ptr ∧
    t.skipMode = s.skipMode ∧ t.scanDirection = s.scanDirection ∧ t.skipLevel = s.skipLevel ∧
    t.outputByte = s.outputByte ∧ t.outputValid = false

/-- What `[` and `]` leave unchanged, in both modes: every cell, the Program Store, `ptr` and `outputByte`; they may change
the skip registers (R73 to R77). -/
def Obligations.FrameOfLoop : Prop :=
  ∀ (i : Instr) (s t : State), i.opcode = .loop → exec i s = .next t →
    (∀ a, t.readTape a = s.readTape a) ∧ (∀ a, t.readCode a = s.readCode a) ∧
    t.params = s.params ∧ t.rst = s.rst ∧ t.ptr = s.ptr ∧ t.outputByte = s.outputByte ∧
    t.outputValid = false

/-! ### The rules of the registers, over every step without reset -/

/-- R20: `outputValid` is 1 after a tick exactly when the tick executed an OUT in RUN mode, and 0 otherwise; it drives the
core's output of the same name. What a tick with `rst = 1` leaves is R100's (ResetTickRestartsOverTheSameTape). -/
def Obligations.OutputValidExactlyAfterExecutedOut : Prop :=
  ∀ s t : State, s.rstNow = false → step s = .next t →
    (t.outputValid = true ↔ s.skipMode = .run ∧ (decodeOp (s.readCode s.pc)).1 = .out) ∧
    t.observe.outputValid = t.outputValid

/-- R19: an OUT executed in RUN mode loads `outputByte` with the cell at `ptr`; every other tick holds it; it drives the
core's output of the same name. -/
def Obligations.OutputByteLoadedByOutOnly : Prop :=
  ∀ s t : State, s.rstNow = false → step s = .next t →
    (s.skipMode = .run ∧ (decodeOp (s.readCode s.pc)).1 = .out → t.outputByte = s.readTape s.ptr) ∧
    (¬(s.skipMode = .run ∧ (decodeOp (s.readCode s.pc)).1 = .out) → t.outputByte = s.outputByte) ∧
    t.observe.outputByte = t.outputByte

/-- R21: MOVE in RUN mode adds +1 or -1 to `ptr` modulo `2^T`; every other tick holds it, and it never changes in SKIP
mode. -/
def Obligations.PtrMovedByMoveInRunOnly : Prop :=
  ∀ s t : State, s.rstNow = false → step s = .next t →
    (s.skipMode = .run → decodeOp (s.readCode s.pc) = (.move, .zero) →
      t.ptr < 2 ^ s.params.tapeAddrBits ∧
        BitVec.ofNat s.params.tapeAddrBits t.ptr = BitVec.ofNat s.params.tapeAddrBits s.ptr + 1) ∧
    (s.skipMode = .run → decodeOp (s.readCode s.pc) = (.move, .one) →
      t.ptr < 2 ^ s.params.tapeAddrBits ∧
        BitVec.ofNat s.params.tapeAddrBits t.ptr = BitVec.ofNat s.params.tapeAddrBits s.ptr - 1) ∧
    ((decodeOp (s.readCode s.pc)).1 ≠ .move → t.ptr = s.ptr) ∧ (s.skipMode = .skip → t.ptr = s.ptr)

/-- R17: SKIP mode is entered only by a LOOP in RUN mode that triggers a skip, and left only by a LOOP in SKIP mode that
brings `skipLevel` to zero. The codes of the two modes are the SPEC'S DECISION D10 (log entry 14). -/
def Obligations.ModeChangesOnlyAtBrackets : Prop :=
  Mode.run.code = 0 ∧ Mode.skip.code = 1 ∧
  ∀ s t : State, s.rstNow = false → step s = .next t →
    (s.skipMode = .run →
      (t.skipMode = .skip ↔
        decodeOp (s.readCode s.pc) = (.loop, .one) ∧ s.readTape s.ptr = 0 ∨
        decodeOp (s.readCode s.pc) = (.loop, .zero) ∧ s.readTape s.ptr ≠ 0)) ∧
    (s.skipMode = .skip →
      (t.skipMode = .run ↔ (decodeOp (s.readCode s.pc)).1 = .loop ∧ t.skipLevel = 0))

/-- The Data Tape is written only by UPDATE executed in RUN mode, and only at the cell at `ptr` (R30); a tick with `rst = 1`
writes no cell (R100, the SPEC'S DECISION D11, log entry 12). -/
def Obligations.TapeWrittenOnlyByUpdateAtPtr : Prop :=
  ∀ (s t : State) (a : Nat), step s = .next t → t.readTape a ≠ s.readTape a →
    s.rstNow = false ∧ s.skipMode = .run ∧ (decodeOp (s.readCode s.pc)).1 = .update ∧
      a % 2 ^ s.params.tapeAddrBits = s.ptr % 2 ^ s.params.tapeAddrBits

/-- Every tick moves `pc` by exactly one, modulo `2^C`, in the direction that the tick commits (R15, R63). That it is the
committed direction is the SPEC'S DECISION D1 (log entry 7). -/
def Obligations.PcMovesByOneInCommittedDirection : Prop :=
  ∀ (i : Instr) (s t : State), exec i s = .next t →
    t.pc < 2 ^ s.params.codeAddrBits ∧
    (t.scanDirection = .fwd →
      BitVec.ofNat s.params.codeAddrBits t.pc = BitVec.ofNat s.params.codeAddrBits s.pc + 1) ∧
    (t.scanDirection = .bwd →
      BitVec.ofNat s.params.codeAddrBits t.pc = BitVec.ofNat s.params.codeAddrBits s.pc - 1)

/-- The direction changes in two cases only: a `]` that enters SKIP mode turns it backward, and the LOOP byte that ends a
backward skip turns it forward (R16, R63). -/
def Obligations.DirectionTurnsAtSkipEnds : Prop :=
  ∀ (i : Instr) (s t : State), s.ModeInv → exec i s = .next t → t.scanDirection ≠ s.scanDirection →
    (i = .loopClose ∧ s.skipMode = .run ∧ s.readTape s.ptr ≠ 0 ∧ s.scanDirection = .fwd ∧
      t.skipMode = .skip) ∨
    (i.opcode = .loop ∧ s.skipMode = .skip ∧ s.scanDirection = .bwd ∧ t.skipMode = .run ∧
      t.skipLevel = 0)

/-- `skipLevel` is a W-bit two's-complement counter: LOOP in SKIP mode adds -1 for `[` and +1 for `]` on its W-bit pattern,
and the value held is the integer that pattern denotes (R66, R75, R76). Two's complement is PRESUMED (log entry 17). -/
def Obligations.SkipLevelIsTwosComplement : Prop :=
  ∀ s t : State, s.params.Wf → s.skipMode = .skip →
    (exec .loopOpen s = .next t →
      t.skipLevel = (BitVec.ofInt s.params.skipLevelBits s.skipLevel - 1).toInt) ∧
    (exec .loopClose s = .next t →
      t.skipLevel = (BitVec.ofInt s.params.skipLevelBits s.skipLevel + 1).toInt)

/-- R31: from every tape address every instruction completes, at an address of T bits again, so no tape access faults;
MOVE applied `2^T` times in one direction, in RUN mode, returns `ptr` to its start value. -/
def Obligations.MoveTapeSizeTimesReturnsPtr : Prop :=
  ∀ (i : Instr) (s : State), s.ptr < 2 ^ s.params.tapeAddrBits →
    (∃ t, exec i s = .next t ∧ t.ptr < 2 ^ s.params.tapeAddrBits) ∧
    (i.opcode = .move → s.ModeInv → s.skipMode = .run →
      ∃ t, ExecTimes i (2 ^ s.params.tapeAddrBits) s t ∧ t.ptr = s.ptr)

/-- UPDATE applied 256 times in one direction, in RUN mode, returns the whole Data Tape to its start value (R71, R72). -/
def Obligations.Update256TimesReturnsTheTape : Prop :=
  ∀ (i : Instr) (s : State), i.opcode = .update → s.ModeInv → s.MemoriesWf → s.skipMode = .run →
    ∃ t, ExecTimes i 256 s t ∧ t.ptr = s.ptr ∧ t.tape = s.tape

/-- A write in one tick is seen by the next: `+.` emits the cell plus 1, and `++` adds 2 (R38, R71, R103). -/
def Obligations.WriteIsSeenByTheNextTick : Prop :=
  ∀ s : State, s.ModeInv → s.MemoriesWf → s.skipMode = .run →
    ∃ t, exec .increment s = .next t ∧
      (∃ u, exec .output t = .next u ∧ u.outputByte = s.readTape s.ptr + 1) ∧
      ∃ u, exec .increment t = .next u ∧ u.readTape s.ptr = s.readTape s.ptr + 2

/-- A tick in SKIP mode reads no cell: over another Data Tape it makes the same registers and the same outputs, the port
register of the tape apart (R64, R75, R76).
That a tick with `rst = 1` leaves the tape and reads no cell is R100's, the SPEC'S DECISION D11 (log entry 12); the port
register is D13 (log entry 6). -/
def Obligations.SkipTickDoesNotReadTheTape : Prop :=
  ∀ (s : State) (other : Memory), s.skipMode = .skip →
    ∃ t u, step s = .next t ∧ step { s with tape := other } = .next u ∧
      u = { t with tape := other, tapeQ := u.tapeQ } ∧ t.tape = s.tape

/-! ### Invariants -/

/-- Every step keeps the invariant: legal parameters, R25, every register in its width, both memories canonical and within
their sizes. What a tick with `rst = 1` leaves is R100's, the SPEC'S DECISIONS D11 and D5 (log entries 12 and 5).
The signed range of `skipLevel` is two's complement, PRESUMED (log entry 17); the canonical form is the model's (log
entry 13). -/
def Obligations.StepKeepsInvariant : Prop :=
  ∀ s t : State, s.Inv → step s = .next t → t.Inv

/-- The invariant holds at reset. -/
def Obligations.ResetHasInvariant : Prop := State.reset.Inv

/-- The invariant holds at every construction, for every admitted image, padding and initial tape.
The register values at construction rest on the SPEC'S DECISION D5 (log entry 5). -/
def Obligations.ConstructionHasInvariant : Prop :=
  ∀ (p : Params) (image padding tapeInit : List Byte) (s : State),
    construct p image padding tapeInit = .next s → s.Inv

/-- The two invariants of R25 are kept by every step, with no other premise. What a tick with `rst = 1` leaves is R100's, the
SPEC'S DECISIONS D11 and D5 (log entries 12 and 5). -/
def Obligations.StepKeepsModeInvariant : Prop :=
  ∀ s t : State, s.ModeInv → step s = .next t → t.ModeInv

/-- Every reachable state, from any admitted construction and under any reset input, satisfies R25 and the invariant of
the machine. What a reset leaves is the SPEC'S DECISION D11 (log entry 12). -/
def Obligations.ReachableStatesSatisfyModeInvariant : Prop :=
  ∀ s : State, Reachable s → s.ModeInv ∧ s.Inv

/-- Two memories in canonical form that read alike at every address are equal data. A property of THE MODEL'S
representation of memories (log entry 13); no rule of the spec. -/
def Obligations.CanonicalMemoriesReadingAlikeAreEqual : Prop :=
  ∀ m m' : Memory, m.wf → m'.wf → (∀ a, m.read a = m'.read a) → m = m'

/-! ### The port-level realisation -/

/-- After every tick that is not a reset tick the port registers hold the byte at the new `pc` and the cell at the new
`ptr` (R45; the SPEC'S DECISION D13, log entry 6). -/
def Obligations.EveryTickLoadsThePortRegisters : Prop :=
  ∀ s t : State, s.rstNow = false → step s = .next t →
    t.codeQ = t.readCode t.pc ∧ t.tapeQ = t.readTape t.ptr

/-- The port-level realisation, which decodes `codeQ` and takes `tapeQ` for the cell, makes the same next state as the tick
function whenever the port registers show what the tick function reads (R43 to R45; the port structure is the SPEC'S
DECISION D13, log entry 6). -/
def Obligations.PortStepIsStep : Prop :=
  ∀ s : State, s.MemoriesWf → s.PortsAgree → portStep s = step s

/-- From every construction, under any reset input, the port-level realisation and the tick function make the same run,
tick for tick (R45, R102; D13 and D16, log entries 6 and 18; a reset tick is R100's, D11, log entry 12). -/
def Obligations.PortRunIsRun : Prop :=
  ∀ (p : Params) (image padding tapeInit : List Byte) (s : State) (rst : List Bool),
    construct p image padding tapeInit = .next s →
    ∀ (n : Nat) (t : State), Ticks n { s with rst := rst } t → PortTicks n { s with rst := rst } t

/-- A program cannot observe the port registers: they change no run and no output (R45).
That a tick overwrites both registers and reads neither is the port structure, the SPEC'S DECISION D13 (log entry 6); in
a tick with `rst = 1` it is R100's, D11 (log entry 12). -/
def Obligations.PortRegistersAreUnobservable : Prop :=
  ∀ (s : State) (code tape : Byte) (n : Nat),
    Trace n { s with codeQ := code, tapeQ := tape } = Trace n s ∧
    ∀ t, Ticks (n + 1) { s with codeQ := code, tapeQ := tape } t ↔ Ticks (n + 1) s t

/-- In RUN mode the value of `skipLevel` influences nothing: no output of any run depends on it (R18).
What a tick with `rst = 1` leaves is R100's, the SPEC'S DECISION D11 (log entry 12). -/
def Obligations.SkipLevelIsUnobservableInRunMode : Prop :=
  ∀ (s : State) (level : Int) (n : Nat), s.skipMode = .run →
    Trace n { s with skipLevel := level } = Trace n s

/-! ### Runs -/

/-- No tick writes the Program Store, and a fetch always returns the construction byte at `pc`, after any number of ticks
and whatever was stored to the tape (R41). Behind image and padding that byte is `0x00`, the SPEC'S DEFAULT D3 (log
entry 3); that a tick with `rst = 1` keeps the store is R100's, the SPEC'S DECISION D11 (log entry 12). -/
def Obligations.FetchReturnsTheConstructionByte : Prop :=
  ∀ (p : Params) (image padding tapeInit : List Byte) (s t : State) (rst : List Bool) (n : Nat),
    construct p image padding tapeInit = .next s → Ticks n { s with rst := rst } t →
      t.store = s.store ∧ t.fetchByte = (image ++ padding).getD t.pc 0x00

/-- The output pulse law: in every run from a construction, each tick but the first shows a pulse exactly when the tick
before executed a `.`, with the cell at `ptr` of that tick, and pulses and executed `.` are equally
many (R81). That tick 0 shows no pulse is the SPEC'S DECISION D5 (log entry 5); that a tick with `rst = 1` executes no `.`
and is followed by no pulse is R100's, not R81's, the SPEC'S DECISION D11 (log entry 12). -/
def Obligations.PulsesAndExecutedOutsCorrespond : Prop :=
  ∀ (p : Params) (image padding tapeInit : List Byte) (s : State) (rst : List Bool) (n : Nat),
    construct p image padding tapeInit = .next s →
      s.outputValid = false ∧
      (∀ t u, Ticks n { s with rst := rst } t → step t = .next u →
        (u.outputValid = true ↔ t.ExecutesOut) ∧
        (t.ExecutesOut → u.outputByte = t.readTape t.ptr)) ∧
      (Trace (n + 1) { s with rst := rst }).countP (fun o => o.outputValid) =
        outsExecuted n { s with rst := rst }

/-- The two leading NOPs: two ticks after construction the machine is at address 2 (modulo `2^C`), and the rest is as at
construction, the port registers apart (R102). That no other images are admitted is the SPEC'S DECISION D6 (log
entry 10). -/
def Obligations.WarmUpTakesTwoTicks : Prop :=
  ∀ (p : Params) (image padding tapeInit : List Byte) (s : State),
    construct p image padding tapeInit = .next s →
      ∃ t, Ticks 2 s t ∧
        t = { s with pc := 2 % 2 ^ p.codeAddrBits, codeQ := t.codeQ, tapeQ := t.tapeQ }

/-- After the image `pc` walks NOP padding to the end of the store and wraps to 0, with the tape, `ptr`, `outputByte` and
the skip registers as they stand (R82, R108). -/
def Obligations.NopPaddingWrapsToAddressZero : Prop :=
  ∀ s : State, s.ModeInv → s.NoReset → s.skipMode = .run → s.pc < 2 ^ s.params.codeAddrBits →
    (∀ a, s.pc ≤ a → a < 2 ^ s.params.codeAddrBits → (decodeOp (s.readCode a)).1 = .nop) →
    ∃ t, Ticks (2 ^ s.params.codeAddrBits - s.pc) s t ∧ t.pc = 0 ∧ t.skipMode = .run ∧
      t.scanDirection = .fwd ∧ t.skipLevel = s.skipLevel ∧ t.ptr = s.ptr ∧ t.tape = s.tape ∧
      t.store = s.store ∧ t.outputByte = s.outputByte ∧ t.outputValid = false

/-- A skip counts the brackets it scans, from any state in SKIP mode and over any store, wrapping in `pc` and in
`skipLevel`: as long as the count has not come to 0 the machine scans on and changes nothing else, and at the first tick
where it comes to 0 the machine is back in RUN mode at the byte after the bracket just scanned. Brackets need not be
balanced (R75, R76, R77, R79; D1 and D12, log entries 7 and 15).
The signed wrap is two's complement and the brackets' bytes are ASCII, both PRESUMED (log entries 17 and 8). -/
def Obligations.SkipEndsWhereTheBracketCountReachesZero : Prop :=
  ∀ (s : State) (n : Nat), s.Inv → s.NoReset → s.skipMode = .skip →
    (∀ k, k ≤ n → (s.skipLevel - nesting (s.scanned k)).bmod (2 ^ s.params.skipLevelBits) ≠ 0) →
    (∃ t, Ticks n s t ∧ t.skipMode = .skip ∧ t.scanDirection = s.scanDirection ∧
      t.skipLevel = (s.skipLevel - nesting (s.scanned n)).bmod (2 ^ s.params.skipLevelBits) ∧
      t.pc = s.scanAddr n ∧ t.ptr = s.ptr ∧ t.tape = s.tape ∧ t.outputByte = s.outputByte) ∧
    ((s.skipLevel - nesting (s.scanned (n + 1))).bmod (2 ^ s.params.skipLevelBits) = 0 →
      ∃ t, Ticks (n + 1) s t ∧ t.skipMode = .run ∧ t.scanDirection = .fwd ∧ t.skipLevel = 0 ∧
        t.pc = (s.scanAddr n + 1) % 2 ^ s.params.codeAddrBits ∧
        t.ptr = s.ptr ∧ t.tape = s.tape ∧ t.outputByte = s.outputByte)

/-- Loop balance, forward: a `[` at `pc` on a zero cell, a balanced body behind it and the matching `]`, with
`W >= C + 1`: the skip visits the body and the `]`, one byte a tick, at level minus (1 plus the nesting so far), and the
next byte executed is the one after the `]` (R78).
The brackets' bytes are PRESUMED ASCII (log entry 8). -/
def Obligations.ForwardSkipEndsAtMatchingBracket : Prop :=
  ∀ (s : State) (body : List Byte), s.ModeInv → s.NoReset → s.params.Wf → s.skipMode = .run →
    s.params.codeAddrBits + 1 ≤ s.params.skipLevelBits →
    s.HoldsAt s.pc (0x5B :: (body ++ [0x5D])) → Balanced body → s.readTape s.ptr = 0 →
    (∀ j, j ≤ body.length → ∃ t, Ticks (j + 1) s t ∧ t.skipMode = .skip ∧ t.scanDirection = .fwd ∧
      t.pc = s.pc + 1 + j ∧ t.skipLevel = -(1 + nesting (body.take j)) ∧ 0 ≤ nesting (body.take j)) ∧
    ∃ t, Ticks (body.length + 2) s t ∧ t.skipMode = .run ∧ t.scanDirection = .fwd ∧
      t.pc = (s.pc + body.length + 2) % 2 ^ s.params.codeAddrBits ∧
      t.ptr = s.ptr ∧ t.tape = s.tape ∧ t.outputByte = s.outputByte

/-- Loop balance, backward: a `]` at `pc` on a non-zero cell, a balanced body before it and the matching `[` at `q`, with
`W >= C + 1`: the skip visits the body and the `[` downward, one byte a tick, and the next byte executed is the one after
the `[` (R78). The first byte scanned and the resume address are the SPEC'S DECISION D1 (log entry 7).
The brackets' bytes are PRESUMED ASCII (log entry 8). -/
def Obligations.BackwardSkipEndsAtMatchingBracket : Prop :=
  ∀ (s : State) (body : List Byte) (q : Nat), s.ModeInv → s.NoReset → s.params.Wf →
    s.skipMode = .run → s.params.codeAddrBits + 1 ≤ s.params.skipLevelBits →
    s.HoldsAt q (0x5B :: (body ++ [0x5D])) → s.pc = q + 1 + body.length → Balanced body →
    s.readTape s.ptr ≠ 0 →
    (∀ j, j ≤ body.length → ∃ t, Ticks (j + 1) s t ∧ t.skipMode = .skip ∧ t.scanDirection = .bwd ∧
      t.pc = q + body.length - j ∧
      t.skipLevel = 1 - nesting (body.drop (body.length - j)) ∧
      nesting (body.drop (body.length - j)) ≤ 0) ∧
    ∃ t, Ticks (body.length + 2) s t ∧ t.skipMode = .run ∧ t.scanDirection = .fwd ∧
      t.pc = q + 1 ∧ t.ptr = s.ptr ∧ t.tape = s.tape ∧ t.outputByte = s.outputByte

/-- In a balanced stretch of program every `[` has its matching `]`, with a balanced body between them, and every `]` its
`[` (R78's "syntactic match").
The brackets' bytes are PRESUMED ASCII (log entry 8). -/
def Obligations.EveryBracketOfBalancedProgramHasItsMatch : Prop :=
  ∀ bytes : List Byte, Balanced bytes →
    (∀ pre post : List Byte, bytes = pre ++ 0x5B :: post →
      ∃ body rest, post = body ++ 0x5D :: rest ∧ Balanced body) ∧
    (∀ pre post : List Byte, bytes = pre ++ 0x5D :: post →
      ∃ rest body, pre = rest ++ 0x5B :: body ∧ Balanced body)

/-- The cost of a loop whose body holds no brackets: `k + 2` ticks when it is entered on a zero cell, and `2nk + 2n - k`
when its body runs `n` times, the `j`-th `]` being executed in tick `1 + k + (j - 1)(2k + 2)` from the `[` (R107; the
backward scan rests on D1, log entry 7).
The brackets' bytes are PRESUMED ASCII (log entry 8). -/
def Obligations.StraightLoopCost : Prop :=
  ∀ (s : State) (body : List Byte) (n : Nat), s.ModeInv → s.NoReset → s.params.Wf →
    s.skipMode = .run → s.HoldsAt s.pc (0x5B :: (body ++ [0x5D])) →
    (∀ b ∈ body, b ≠ 0x5B ∧ b ≠ 0x5D) →
    (s.readTape s.ptr = 0 →
      ∃ t, Ticks (body.length + 2) s t ∧ t.skipMode = .run ∧
        t.pc = (s.pc + body.length + 2) % 2 ^ s.params.codeAddrBits) ∧
    (s.readTape s.ptr ≠ 0 → 1 ≤ n →
      (∀ j t, 1 ≤ j → j < n → Ticks (1 + body.length + (j - 1) * (2 * body.length + 2)) s t →
        t.readTape t.ptr ≠ 0) →
      (∀ t, Ticks (1 + body.length + (n - 1) * (2 * body.length + 2)) s t → t.readTape t.ptr = 0) →
      (∀ j, 1 ≤ j → j ≤ n →
        ∃ t, Ticks (1 + body.length + (j - 1) * (2 * body.length + 2)) s t ∧ t.skipMode = .run ∧
          t.pc = s.pc + 1 + body.length) ∧
      ∃ t, Ticks (2 * n * body.length + 2 * n - body.length) s t ∧ t.skipMode = .run ∧
        t.pc = (s.pc + body.length + 2) % 2 ^ s.params.codeAddrBits)
end

