-- ==== Sys2Proof/Laws/Memory.lean ====
section
/-! SUPPORT. The laws of a memory: read after write, and the canonical form that every operation keeps. -/

namespace Sys2Proof.Machine.Memory

@[simp] theorem read_nil (a : Nat) : Memory.read [] a = unlisted := rfl

theorem read_consCell_self (a : Nat) (v : Byte) (m : Memory) (h : read m a = unlisted) :
    read (consCell a v m) a = v := by
  unfold consCell
  split
  · next hv => rw [h, hv]
  · simp [read]

theorem read_consCell_other {a x : Nat} (v : Byte) (m : Memory) (h : x ≠ a) :
    read (consCell a v m) x = read m x := by
  unfold consCell
  split
  · rfl
  · simp [read, h]

/-- An address below every listed one is not listed. -/
theorem read_of_forall_lt {m : Memory} {a : Nat} (h : ∀ c ∈ m, a < c.1) : read m a = unlisted := by
  induction m with
  | nil => rfl
  | cons c m ih =>
    have hc : a ≠ c.1 := Nat.ne_of_lt (h c (List.mem_cons_self ..))
    simpa [read, hc] using ih fun d hd => h d (List.mem_cons_of_mem _ hd)

theorem wf.tail {c : Host.Cell} {m : Memory} (h : wf (c :: m)) : wf m :=
  ⟨(List.pairwise_cons.1 h.1).2, fun d hd => h.2 d (List.mem_cons_of_mem _ hd)⟩

theorem wf.head_lt {c : Host.Cell} {m : Memory} (h : wf (c :: m)) : ∀ d ∈ m, c.1 < d.1 :=
  (List.pairwise_cons.1 h.1).1

theorem wf_nil : wf [] := ⟨List.Pairwise.nil, fun _ h => nomatch h⟩

theorem wf_consCell {a : Nat} {v : Byte} {m : Memory} (hm : wf m) (h : ∀ c ∈ m, a < c.1) :
    wf (consCell a v m) := by
  unfold consCell
  split
  · exact hm
  · next hv =>
    refine ⟨List.pairwise_cons.2 ⟨h, hm.1⟩, ?_⟩
    rintro c hc
    rcases List.mem_cons.1 hc with rfl | hc
    · exact hv
    · exact hm.2 c hc

theorem mem_consCell {a : Nat} {v : Byte} {m : Memory} {c : Host.Cell} (h : c ∈ consCell a v m) :
    c.1 = a ∨ c ∈ m := by
  unfold consCell at h
  split at h
  · exact .inr h
  · rcases List.mem_cons.1 h with rfl | h
    · exact .inl rfl
    · exact .inr h

/-- A write lists no address but the one written and those listed before. -/
theorem mem_write {m : Memory} {a : Nat} {v : Byte} {c : Host.Cell} (h : c ∈ write m a v) :
    c.1 = a ∨ c ∈ m := by
  induction m with
  | nil => exact (mem_consCell h).imp_right id
  | cons d m ih =>
    simp only [write] at h
    split at h
    · exact mem_consCell h
    · split at h
      · exact (mem_consCell h).imp_right (List.mem_cons_of_mem _)
      · rcases List.mem_cons.1 h with rfl | h
        · exact .inr (List.mem_cons_self ..)
        · exact (ih h).imp_right (List.mem_cons_of_mem _)

/-- A write keeps the canonical form. -/
theorem wf_write {m : Memory} (hm : wf m) (a : Nat) (v : Byte) : wf (write m a v) := by
  induction m with
  | nil => exact wf_consCell wf_nil fun _ h => nomatch h
  | cons d m ih =>
    simp only [write]
    split
    · next hlt =>
      refine wf_consCell hm fun c hc => ?_
      rcases List.mem_cons.1 hc with rfl | hc
      · exact hlt
      · exact hlt.trans (hm.head_lt c hc)
    · split
      · next heq => exact wf_consCell hm.tail (heq ▸ hm.head_lt)
      · next hlt hne =>
        refine ⟨List.pairwise_cons.2 ⟨fun c hc => ?_, (ih hm.tail).1⟩, fun c hc => ?_⟩
        · rcases mem_write hc with rfl | hc
          · exact lt_of_le_of_ne (not_lt.1 hlt) (Ne.symm hne)
          · exact hm.head_lt c hc
        · rcases List.mem_cons.1 hc with rfl | hc
          · exact hm.2 _ (List.mem_cons_self ..)
          · exact (ih hm.tail).2 c hc

/-- A write inside a memory keeps every listed address inside it. -/
theorem within_write {m : Memory} {size a : Nat} (hm : Within m size) (ha : a < size) (v : Byte) :
    Within (write m a v) size := by
  intro c hc
  rcases mem_write hc with rfl | hc
  · exact ha
  · exact hm c hc

/-- A read of the address written gives the byte written. -/
theorem read_write_self {m : Memory} (hm : wf m) (a : Nat) (v : Byte) : read (write m a v) a = v := by
  induction m with
  | nil => exact read_consCell_self a v [] rfl
  | cons d m ih =>
    simp only [write]
    split
    · next hlt =>
      refine read_consCell_self a v _ (read_of_forall_lt fun c hc => ?_)
      rcases List.mem_cons.1 hc with rfl | hc
      · exact hlt
      · exact hlt.trans (hm.head_lt c hc)
    · split
      · next heq => exact read_consCell_self a v m (read_of_forall_lt (heq ▸ hm.head_lt))
      · next hne => simpa [read, hne] using ih hm.tail

/-- A write leaves every other address alone. -/
theorem read_write_other (m : Memory) {a x : Nat} (v : Byte) (h : x ≠ a) :
    read (write m a v) x = read m x := by
  induction m with
  | nil => exact read_consCell_other v [] h
  | cons d m ih =>
    simp only [write]
    split
    · exact read_consCell_other v _ h
    · split
      · next heq => rw [read_consCell_other v m h, read, if_neg (heq ▸ h)]
      · simp [read, ih]

/-- The bytes of a list stand from the address given up, and in canonical form. -/
theorem mem_ofBytes {a : Nat} {bs : List Byte} {c : Host.Cell} (h : c ∈ ofBytes a bs) :
    a ≤ c.1 ∧ c.1 < a + bs.length := by
  induction bs generalizing a with
  | nil => nomatch h
  | cons b bs ih =>
    rcases mem_consCell h with rfl | h
    · simp
    · have := ih h
      simp only [List.length_cons]
      omega

theorem wf_ofBytes (a : Nat) (bs : List Byte) : wf (ofBytes a bs) := by
  induction bs generalizing a with
  | nil => exact wf_nil
  | cons b bs ih => exact wf_consCell (ih (a + 1)) fun c hc => (mem_ofBytes hc).1

theorem within_ofBytes {bs : List Byte} {size : Nat} (h : bs.length ≤ size) :
    Within (ofBytes 0 bs) size := fun c hc => by
  have := mem_ofBytes hc
  omega

theorem read_ofBytes_below {a x : Nat} (bs : List Byte) (h : x < a) : read (ofBytes a bs) x = unlisted :=
  read_of_forall_lt fun _ hc => lt_of_lt_of_le h (mem_ofBytes hc).1

theorem read_ofBytes (a : Nat) (bs : List Byte) {j : Nat} (hj : j < bs.length) :
    read (ofBytes a bs) (a + j) = bs[j] := by
  induction bs generalizing a j with
  | nil => exact absurd hj (Nat.not_lt_zero _)
  | cons b bs ih =>
    rw [ofBytes]
    cases j with
    | zero => exact read_consCell_self a b _ (read_ofBytes_below bs (Nat.lt_succ_self a))
    | succ j =>
      rw [read_consCell_other b _ (by omega), ← Nat.add_assoc, Nat.add_right_comm]
      exact ih (a + 1) (Nat.lt_of_succ_lt_succ hj)

theorem read_ofBytes_above {a x : Nat} {bs : List Byte} (h : a + bs.length ≤ x) :
    read (ofBytes a bs) x = unlisted := by
  induction bs generalizing a with
  | nil => rfl
  | cons b bs ih =>
    simp only [List.length_cons] at h
    rw [ofBytes, read_consCell_other b _ (by omega)]
    exact ih (by omega)

end Sys2Proof.Machine.Memory
end

