-- ==== Sys2Proof/Laws/State.lean ====
section
/-! SUPPORT. What each register update does to each field of State, one lemma a field, and that every update keeps the
canonical form of the memories. -/

namespace Sys2Proof.Machine.State

/-! ### holdDefaults -/

@[simp] theorem holdDefaults_params (s : State) : s.holdDefaults.params = s.params := rfl
@[simp] theorem holdDefaults_store (s : State) : s.holdDefaults.store = s.store := rfl
@[simp] theorem holdDefaults_tape (s : State) : s.holdDefaults.tape = s.tape := rfl
@[simp] theorem holdDefaults_pc (s : State) : s.holdDefaults.pc = s.pc := rfl
@[simp] theorem holdDefaults_ptr (s : State) : s.holdDefaults.ptr = s.ptr := rfl
@[simp] theorem holdDefaults_scanDirection (s : State) : s.holdDefaults.scanDirection = s.scanDirection := rfl
@[simp] theorem holdDefaults_skipMode (s : State) : s.holdDefaults.skipMode = s.skipMode := rfl
@[simp] theorem holdDefaults_skipLevel (s : State) : s.holdDefaults.skipLevel = s.skipLevel := rfl
@[simp] theorem holdDefaults_outputByte (s : State) : s.holdDefaults.outputByte = s.outputByte := rfl
@[simp] theorem holdDefaults_outputValid (s : State) : s.holdDefaults.outputValid = false := rfl
@[simp] theorem holdDefaults_codeQ (s : State) : s.holdDefaults.codeQ = s.codeQ := rfl
@[simp] theorem holdDefaults_tapeQ (s : State) : s.holdDefaults.tapeQ = s.tapeQ := rfl
@[simp] theorem holdDefaults_rst (s : State) : s.holdDefaults.rst = s.rst := rfl

/-! ### setPtr -/

@[simp] theorem setPtr_params (s : State) (p : Nat) : (s.setPtr p).params = s.params := rfl
@[simp] theorem setPtr_store (s : State) (p : Nat) : (s.setPtr p).store = s.store := rfl
@[simp] theorem setPtr_tape (s : State) (p : Nat) : (s.setPtr p).tape = s.tape := rfl
@[simp] theorem setPtr_pc (s : State) (p : Nat) : (s.setPtr p).pc = s.pc := rfl
@[simp] theorem setPtr_ptr (s : State) (p : Nat) : (s.setPtr p).ptr = p := rfl
@[simp] theorem setPtr_scanDirection (s : State) (p : Nat) : (s.setPtr p).scanDirection = s.scanDirection := rfl
@[simp] theorem setPtr_skipMode (s : State) (p : Nat) : (s.setPtr p).skipMode = s.skipMode := rfl
@[simp] theorem setPtr_skipLevel (s : State) (p : Nat) : (s.setPtr p).skipLevel = s.skipLevel := rfl
@[simp] theorem setPtr_outputByte (s : State) (p : Nat) : (s.setPtr p).outputByte = s.outputByte := rfl
@[simp] theorem setPtr_outputValid (s : State) (p : Nat) : (s.setPtr p).outputValid = s.outputValid := rfl
@[simp] theorem setPtr_codeQ (s : State) (p : Nat) : (s.setPtr p).codeQ = s.codeQ := rfl
@[simp] theorem setPtr_tapeQ (s : State) (p : Nat) : (s.setPtr p).tapeQ = s.tapeQ := rfl
@[simp] theorem setPtr_rst (s : State) (p : Nat) : (s.setPtr p).rst = s.rst := rfl

/-! ### writeCell -/

@[simp] theorem writeCell_params (s : State) (v : Byte) : (s.writeCell v).params = s.params := rfl
@[simp] theorem writeCell_store (s : State) (v : Byte) : (s.writeCell v).store = s.store := rfl
@[simp] theorem writeCell_tape (s : State) (v : Byte) :
    (s.writeCell v).tape = s.tape.write (s.ptr % s.params.tapeSize) v := rfl
@[simp] theorem writeCell_pc (s : State) (v : Byte) : (s.writeCell v).pc = s.pc := rfl
@[simp] theorem writeCell_ptr (s : State) (v : Byte) : (s.writeCell v).ptr = s.ptr := rfl
@[simp] theorem writeCell_scanDirection (s : State) (v : Byte) :
    (s.writeCell v).scanDirection = s.scanDirection := rfl
@[simp] theorem writeCell_skipMode (s : State) (v : Byte) : (s.writeCell v).skipMode = s.skipMode := rfl
@[simp] theorem writeCell_skipLevel (s : State) (v : Byte) : (s.writeCell v).skipLevel = s.skipLevel := rfl
@[simp] theorem writeCell_outputByte (s : State) (v : Byte) : (s.writeCell v).outputByte = s.outputByte := rfl
@[simp] theorem writeCell_outputValid (s : State) (v : Byte) : (s.writeCell v).outputValid = s.outputValid := rfl
@[simp] theorem writeCell_codeQ (s : State) (v : Byte) : (s.writeCell v).codeQ = s.codeQ := rfl
@[simp] theorem writeCell_tapeQ (s : State) (v : Byte) : (s.writeCell v).tapeQ = s.tapeQ := rfl
@[simp] theorem writeCell_rst (s : State) (v : Byte) : (s.writeCell v).rst = s.rst := rfl

/-! ### latchOutput -/

@[simp] theorem latchOutput_params (s : State) (b : Byte) : (s.latchOutput b).params = s.params := rfl
@[simp] theorem latchOutput_store (s : State) (b : Byte) : (s.latchOutput b).store = s.store := rfl
@[simp] theorem latchOutput_tape (s : State) (b : Byte) : (s.latchOutput b).tape = s.tape := rfl
@[simp] theorem latchOutput_pc (s : State) (b : Byte) : (s.latchOutput b).pc = s.pc := rfl
@[simp] theorem latchOutput_ptr (s : State) (b : Byte) : (s.latchOutput b).ptr = s.ptr := rfl
@[simp] theorem latchOutput_scanDirection (s : State) (b : Byte) :
    (s.latchOutput b).scanDirection = s.scanDirection := rfl
@[simp] theorem latchOutput_skipMode (s : State) (b : Byte) : (s.latchOutput b).skipMode = s.skipMode := rfl
@[simp] theorem latchOutput_skipLevel (s : State) (b : Byte) : (s.latchOutput b).skipLevel = s.skipLevel := rfl
@[simp] theorem latchOutput_outputByte (s : State) (b : Byte) : (s.latchOutput b).outputByte = b := rfl
@[simp] theorem latchOutput_outputValid (s : State) (b : Byte) : (s.latchOutput b).outputValid = true := rfl
@[simp] theorem latchOutput_codeQ (s : State) (b : Byte) : (s.latchOutput b).codeQ = s.codeQ := rfl
@[simp] theorem latchOutput_tapeQ (s : State) (b : Byte) : (s.latchOutput b).tapeQ = s.tapeQ := rfl
@[simp] theorem latchOutput_rst (s : State) (b : Byte) : (s.latchOutput b).rst = s.rst := rfl

/-! ### enterSkip -/

@[simp] theorem enterSkip_params (s : State) (d : Direction) (l : Int) : (s.enterSkip d l).params = s.params := rfl
@[simp] theorem enterSkip_store (s : State) (d : Direction) (l : Int) : (s.enterSkip d l).store = s.store := rfl
@[simp] theorem enterSkip_tape (s : State) (d : Direction) (l : Int) : (s.enterSkip d l).tape = s.tape := rfl
@[simp] theorem enterSkip_pc (s : State) (d : Direction) (l : Int) : (s.enterSkip d l).pc = s.pc := rfl
@[simp] theorem enterSkip_ptr (s : State) (d : Direction) (l : Int) : (s.enterSkip d l).ptr = s.ptr := rfl
@[simp] theorem enterSkip_scanDirection (s : State) (d : Direction) (l : Int) :
    (s.enterSkip d l).scanDirection = d := rfl
@[simp] theorem enterSkip_skipMode (s : State) (d : Direction) (l : Int) : (s.enterSkip d l).skipMode = .skip := rfl
@[simp] theorem enterSkip_skipLevel (s : State) (d : Direction) (l : Int) : (s.enterSkip d l).skipLevel = l := rfl
@[simp] theorem enterSkip_outputByte (s : State) (d : Direction) (l : Int) :
    (s.enterSkip d l).outputByte = s.outputByte := rfl
@[simp] theorem enterSkip_outputValid (s : State) (d : Direction) (l : Int) :
    (s.enterSkip d l).outputValid = s.outputValid := rfl
@[simp] theorem enterSkip_codeQ (s : State) (d : Direction) (l : Int) : (s.enterSkip d l).codeQ = s.codeQ := rfl
@[simp] theorem enterSkip_tapeQ (s : State) (d : Direction) (l : Int) : (s.enterSkip d l).tapeQ = s.tapeQ := rfl
@[simp] theorem enterSkip_rst (s : State) (d : Direction) (l : Int) : (s.enterSkip d l).rst = s.rst := rfl

/-! ### setLevel -/

@[simp] theorem setLevel_params (s : State) (l : Int) : (s.setLevel l).params = s.params := rfl
@[simp] theorem setLevel_store (s : State) (l : Int) : (s.setLevel l).store = s.store := rfl
@[simp] theorem setLevel_tape (s : State) (l : Int) : (s.setLevel l).tape = s.tape := rfl
@[simp] theorem setLevel_pc (s : State) (l : Int) : (s.setLevel l).pc = s.pc := rfl
@[simp] theorem setLevel_ptr (s : State) (l : Int) : (s.setLevel l).ptr = s.ptr := rfl
@[simp] theorem setLevel_scanDirection (s : State) (l : Int) : (s.setLevel l).scanDirection = s.scanDirection := rfl
@[simp] theorem setLevel_skipMode (s : State) (l : Int) : (s.setLevel l).skipMode = s.skipMode := rfl
@[simp] theorem setLevel_skipLevel (s : State) (l : Int) : (s.setLevel l).skipLevel = l := rfl
@[simp] theorem setLevel_outputByte (s : State) (l : Int) : (s.setLevel l).outputByte = s.outputByte := rfl
@[simp] theorem setLevel_outputValid (s : State) (l : Int) : (s.setLevel l).outputValid = s.outputValid := rfl
@[simp] theorem setLevel_codeQ (s : State) (l : Int) : (s.setLevel l).codeQ = s.codeQ := rfl
@[simp] theorem setLevel_tapeQ (s : State) (l : Int) : (s.setLevel l).tapeQ = s.tapeQ := rfl
@[simp] theorem setLevel_rst (s : State) (l : Int) : (s.setLevel l).rst = s.rst := rfl

/-! ### leaveSkip -/

@[simp] theorem leaveSkip_params (s : State) : s.leaveSkip.params = s.params := rfl
@[simp] theorem leaveSkip_store (s : State) : s.leaveSkip.store = s.store := rfl
@[simp] theorem leaveSkip_tape (s : State) : s.leaveSkip.tape = s.tape := rfl
@[simp] theorem leaveSkip_pc (s : State) : s.leaveSkip.pc = s.pc := rfl
@[simp] theorem leaveSkip_ptr (s : State) : s.leaveSkip.ptr = s.ptr := rfl
@[simp] theorem leaveSkip_scanDirection (s : State) : s.leaveSkip.scanDirection = .fwd := rfl
@[simp] theorem leaveSkip_skipMode (s : State) : s.leaveSkip.skipMode = .run := rfl
@[simp] theorem leaveSkip_skipLevel (s : State) : s.leaveSkip.skipLevel = s.skipLevel := rfl
@[simp] theorem leaveSkip_outputByte (s : State) : s.leaveSkip.outputByte = s.outputByte := rfl
@[simp] theorem leaveSkip_outputValid (s : State) : s.leaveSkip.outputValid = s.outputValid := rfl
@[simp] theorem leaveSkip_codeQ (s : State) : s.leaveSkip.codeQ = s.codeQ := rfl
@[simp] theorem leaveSkip_tapeQ (s : State) : s.leaveSkip.tapeQ = s.tapeQ := rfl
@[simp] theorem leaveSkip_rst (s : State) : s.leaveSkip.rst = s.rst := rfl

/-! ### takeRst -/

@[simp] theorem takeRst_params (s : State) : s.takeRst.params = s.params := rfl
@[simp] theorem takeRst_store (s : State) : s.takeRst.store = s.store := rfl
@[simp] theorem takeRst_tape (s : State) : s.takeRst.tape = s.tape := rfl
@[simp] theorem takeRst_pc (s : State) : s.takeRst.pc = s.pc := rfl
@[simp] theorem takeRst_ptr (s : State) : s.takeRst.ptr = s.ptr := rfl
@[simp] theorem takeRst_scanDirection (s : State) : s.takeRst.scanDirection = s.scanDirection := rfl
@[simp] theorem takeRst_skipMode (s : State) : s.takeRst.skipMode = s.skipMode := rfl
@[simp] theorem takeRst_skipLevel (s : State) : s.takeRst.skipLevel = s.skipLevel := rfl
@[simp] theorem takeRst_outputByte (s : State) : s.takeRst.outputByte = s.outputByte := rfl
@[simp] theorem takeRst_outputValid (s : State) : s.takeRst.outputValid = s.outputValid := rfl
@[simp] theorem takeRst_codeQ (s : State) : s.takeRst.codeQ = s.codeQ := rfl
@[simp] theorem takeRst_tapeQ (s : State) : s.takeRst.tapeQ = s.tapeQ := rfl
@[simp] theorem takeRst_rst (s : State) : s.takeRst.rst = s.rst.tail := rfl

/-! ### externalReset -/

@[simp] theorem externalReset_params (s : State) : s.externalReset.params = s.params := rfl
@[simp] theorem externalReset_store (s : State) : s.externalReset.store = s.store := rfl
@[simp] theorem externalReset_tape (s : State) : s.externalReset.tape = s.tape := rfl
@[simp] theorem externalReset_pc (s : State) : s.externalReset.pc = 0 := rfl
@[simp] theorem externalReset_ptr (s : State) : s.externalReset.ptr = 0 := rfl
@[simp] theorem externalReset_scanDirection (s : State) : s.externalReset.scanDirection = .fwd := rfl
@[simp] theorem externalReset_skipMode (s : State) : s.externalReset.skipMode = .run := rfl
@[simp] theorem externalReset_skipLevel (s : State) : s.externalReset.skipLevel = 0 := rfl
@[simp] theorem externalReset_outputByte (s : State) : s.externalReset.outputByte = s.params.outputByteReset := rfl
@[simp] theorem externalReset_outputValid (s : State) : s.externalReset.outputValid = false := rfl
@[simp] theorem externalReset_codeQ (s : State) : s.externalReset.codeQ = 0x00 := rfl
@[simp] theorem externalReset_tapeQ (s : State) : s.externalReset.tapeQ = 0x00 := rfl
@[simp] theorem externalReset_rst (s : State) : s.externalReset.rst = s.rst := rfl

/-! ### commit -/

@[simp] theorem commit_params (s s' : State) : (commit s s').params = s'.params := rfl
@[simp] theorem commit_store (s s' : State) : (commit s s').store = s'.store := rfl
@[simp] theorem commit_tape (s s' : State) : (commit s s').tape = s'.tape := rfl
@[simp] theorem commit_pc (s s' : State) : (commit s s').pc = nextPc s s' := rfl
@[simp] theorem commit_ptr (s s' : State) : (commit s s').ptr = s'.ptr := rfl
@[simp] theorem commit_scanDirection (s s' : State) : (commit s s').scanDirection = s'.scanDirection := rfl
@[simp] theorem commit_skipMode (s s' : State) : (commit s s').skipMode = s'.skipMode := rfl
@[simp] theorem commit_skipLevel (s s' : State) : (commit s s').skipLevel = s'.skipLevel := rfl
@[simp] theorem commit_outputByte (s s' : State) : (commit s s').outputByte = s'.outputByte := rfl
@[simp] theorem commit_outputValid (s s' : State) : (commit s s').outputValid = s'.outputValid := rfl
@[simp] theorem commit_codeQ (s s' : State) : (commit s s').codeQ = s.readCode (nextPc s s') := rfl
@[simp] theorem commit_tapeQ (s s' : State) : (commit s s').tapeQ = s'.readTape s'.ptr := rfl
@[simp] theorem commit_rst (s s' : State) : (commit s s').rst = s'.rst := rfl

/-! ### Reads depend on one memory and one width -/

theorem readCode_congr {s t : State} (hp : t.params = s.params) (hm : t.store = s.store) (a : Nat) :
    t.readCode a = s.readCode a := by simp [readCode, hp, hm]

theorem readTape_congr {s t : State} (hp : t.params = s.params) (hm : t.tape = s.tape) (a : Nat) :
    t.readTape a = s.readTape a := by simp [readTape, hp, hm]

@[simp] theorem takeRst_fetchInstr (s : State) : s.takeRst.fetchInstr = s.fetchInstr := rfl
@[simp] theorem takeRst_fetchByte (s : State) : s.takeRst.fetchByte = s.fetchByte := rfl
@[simp] theorem readCode_mod (s : State) (a : Nat) :
    s.readCode (a % 2 ^ s.params.codeAddrBits) = s.readCode a := by
  simp [readCode, Params.codeSize]

@[simp] theorem readTape_mod (s : State) (a : Nat) :
    s.readTape (a % 2 ^ s.params.tapeAddrBits) = s.readTape a := by
  simp [readTape, Params.tapeSize]

@[simp] theorem holdDefaults_readCode (s : State) (a : Nat) :
    s.holdDefaults.readCode a = s.readCode a := rfl
@[simp] theorem holdDefaults_readTape (s : State) (a : Nat) :
    s.holdDefaults.readTape a = s.readTape a := rfl
@[simp] theorem setPtr_readCode (s : State) (p : Nat) (a : Nat) :
    (s.setPtr p).readCode a = s.readCode a := rfl
@[simp] theorem setPtr_readTape (s : State) (p : Nat) (a : Nat) :
    (s.setPtr p).readTape a = s.readTape a := rfl
@[simp] theorem writeCell_readCode (s : State) (v : Byte) (a : Nat) :
    (s.writeCell v).readCode a = s.readCode a := rfl
@[simp] theorem latchOutput_readCode (s : State) (b : Byte) (a : Nat) :
    (s.latchOutput b).readCode a = s.readCode a := rfl
@[simp] theorem latchOutput_readTape (s : State) (b : Byte) (a : Nat) :
    (s.latchOutput b).readTape a = s.readTape a := rfl
@[simp] theorem enterSkip_readCode (s : State) (d : Direction) (l : Int) (a : Nat) :
    (s.enterSkip d l).readCode a = s.readCode a := rfl
@[simp] theorem enterSkip_readTape (s : State) (d : Direction) (l : Int) (a : Nat) :
    (s.enterSkip d l).readTape a = s.readTape a := rfl
@[simp] theorem setLevel_readCode (s : State) (l : Int) (a : Nat) :
    (s.setLevel l).readCode a = s.readCode a := rfl
@[simp] theorem setLevel_readTape (s : State) (l : Int) (a : Nat) :
    (s.setLevel l).readTape a = s.readTape a := rfl
@[simp] theorem leaveSkip_readCode (s : State) (a : Nat) :
    s.leaveSkip.readCode a = s.readCode a := rfl
@[simp] theorem leaveSkip_readTape (s : State) (a : Nat) :
    s.leaveSkip.readTape a = s.readTape a := rfl
@[simp] theorem takeRst_readCode (s : State) (a : Nat) :
    s.takeRst.readCode a = s.readCode a := rfl
@[simp] theorem takeRst_readTape (s : State) (a : Nat) :
    s.takeRst.readTape a = s.readTape a := rfl
@[simp] theorem externalReset_readCode (s : State) (a : Nat) :
    s.externalReset.readCode a = s.readCode a := rfl
@[simp] theorem externalReset_readTape (s : State) (a : Nat) :
    s.externalReset.readTape a = s.readTape a := rfl
@[simp] theorem commit_readCode (s : State) (s' : State) (a : Nat) :
    (s.commit s').readCode a = s'.readCode a := rfl
@[simp] theorem commit_readTape (s : State) (s' : State) (a : Nat) :
    (s.commit s').readTape a = s'.readTape a := rfl

/-- After a write the cell at `ptr` reads as the byte written (20_memory.md R38). -/
theorem readTape_writeCell_self {s : State} (h : s.tape.wf) (v : Byte) {a : Nat}
    (ha : a % s.params.tapeSize = s.ptr % s.params.tapeSize) : (s.writeCell v).readTape a = v := by
  simp only [readTape, writeCell_tape, writeCell_params, ha]
  exact Memory.read_write_self h _ v

/-- A write leaves every cell but the one at `ptr` alone. -/
theorem readTape_writeCell_other (s : State) (v : Byte) {a : Nat}
    (ha : a % s.params.tapeSize ≠ s.ptr % s.params.tapeSize) : (s.writeCell v).readTape a = s.readTape a := by
  simp only [readTape, writeCell_tape, writeCell_params]
  exact Memory.read_write_other _ v ha

theorem tapeSize_pos (p : Params) : 0 < p.tapeSize := Nat.two_pow_pos _

theorem codeSize_pos (p : Params) : 0 < p.codeSize := Nat.two_pow_pos _

/-- The memory operations of State keep the canonical form: the one write there is, and construction. -/
theorem writeCell_tape_wf {s : State} (h : s.tape.wf) (v : Byte) : (s.writeCell v).tape.wf :=
  Memory.wf_write h _ v

theorem writeCell_tape_within {s : State} (h : s.tape.Within s.params.tapeSize) (v : Byte) :
    (s.writeCell v).tape.Within s.params.tapeSize :=
  Memory.within_write h (Nat.mod_lt _ (tapeSize_pos _)) v

theorem reset_store_wf : State.reset.store.wf := Memory.wf_nil

theorem reset_tape_wf : State.reset.tape.wf := Memory.wf_nil

/-- What a construction answers when it answers a state. -/
theorem construct_next {p : Params} {image padding tapeInit : List Byte} {s : State}
    (h : construct p image padding tapeInit = .next s) :
    p.Wf ∧ image.length + padding.length ≤ p.codeSize ∧ tapeInit.length ≤ p.tapeSize ∧
      warmUpOk (Memory.ofBytes 0 (image ++ padding)) = true ∧
      s = State.initial p (Memory.ofBytes 0 (image ++ padding)) (Memory.ofBytes 0 tapeInit) := by
  unfold construct at h
  split at h
  · cases h
  · next hp =>
    split at h
    · cases h
    · split at h
      · cases h
      · next hc =>
        split at h
        · cases h
        · next ht =>
          simp only at h
          split at h
          · next hw =>
            cases h
            exact ⟨not_not.1 hp, not_lt.1 hc, not_lt.1 ht, hw, rfl⟩
          · cases h

end Sys2Proof.Machine.State
end

