-- ==== Sys2Proof/Laws/Ops.lean ====
section
/-! SUPPORT. The arithmetic of the core: bounds of the wrapped results, and the two directions of a step undo each other. -/

namespace Sys2Proof.Machine

@[simp] theorem stepAddr_zero (bits a : Nat) : stepAddr bits .zero a = (a + 1) % 2 ^ bits := by
  simp [stepAddr]

@[simp] theorem stepAddr_one (bits a : Nat) : stepAddr bits .one a = (a + (2 ^ bits - 1)) % 2 ^ bits := by
  simp [stepAddr]

theorem stepAddr_lt (bits : Nat) (sign : Sign) (a : Nat) : stepAddr bits sign a < 2 ^ bits := by
  unfold stepAddr
  split <;> exact Nat.mod_lt _ (Nat.two_pow_pos _)

/-- A wrapped level lies in `W` bits, two's complement. -/
theorem wrapLevel_bounds {bits : Nat} (h : 1 ≤ bits) (x : Int) :
    -(2 : Int) ^ (bits - 1) ≤ wrapLevel bits x ∧ wrapLevel bits x < (2 : Int) ^ (bits - 1) := by
  obtain ⟨k, rfl⟩ : ∃ k, bits = k + 1 := ⟨bits - 1, by omega⟩
  have hc : ((2 : Int) ^ k) = ((2 ^ k : Nat) : Int) := by push_cast; rfl
  have hpos : 0 < 2 ^ k := Nat.two_pow_pos k
  rw [Nat.add_sub_cancel, wrapLevel, pow_succ', hc]
  have h1 := Int.le_bmod (x := x) (m := 2 * 2 ^ k) (by omega)
  have h2 := Int.bmod_lt (x := x) (m := 2 * 2 ^ k) (by omega)
  push_cast at h1 h2 ⊢
  omega

/-- A level that lies in `W` bits is not changed by wrapping. -/
theorem wrapLevel_of_bounds {bits : Nat} {x : Int} (h : 1 ≤ bits)
    (h1 : -(2 : Int) ^ (bits - 1) ≤ x) (h2 : x < (2 : Int) ^ (bits - 1)) : wrapLevel bits x = x := by
  obtain ⟨k, rfl⟩ : ∃ k, bits = k + 1 := ⟨bits - 1, by omega⟩
  simp only [Nat.add_sub_cancel] at h1 h2
  unfold wrapLevel
  apply Int.bmod_eq_of_le_mul_two <;> push_cast <;> rw [pow_succ'] <;> omega

@[simp] theorem cellDelta_zero : cellDelta .zero = 1 := rfl
@[simp] theorem cellDelta_one : cellDelta .one = -1 := rfl
@[simp] theorem levelDelta_zero : levelDelta .zero = 1 := rfl
@[simp] theorem levelDelta_one : levelDelta .one = -1 := rfl

theorem isZero_iff (s : State) : s.isZero = true ↔ s.cell = 0 := by
  simp [State.isZero]

end Sys2Proof.Machine
end

