-- ==== Sys2Proof/Laws/Exec.lean ====
section
/-! SUPPORT. What one step can do, said once: the arms of 40_control.md R68 as a case list, and that every step answers the
commit of one of them or the external reset. Also the laws of runs. -/

namespace Sys2Proof.Machine

/-- The states that an arm of 40_control.md R68 can make of `s`, before the commit. -/
inductive ArmResult (s : State) : State → Prop
  | inert : ArmResult s s.holdDefaults
  | move (sign : Sign) (h : s.skipMode = .run) :
      ArmResult s (s.holdDefaults.setPtr (stepAddr s.params.tapeAddrBits sign s.ptr))
  | update (sign : Sign) (h : s.skipMode = .run) :
      ArmResult s (s.holdDefaults.writeCell (s.cell + cellDelta sign))
  | enterForward (h : s.skipMode = .run) (hz : s.cell = 0) :
      ArmResult s (s.holdDefaults.enterSkip .fwd (-1))
  | enterBackward (h : s.skipMode = .run) (hz : s.cell ≠ 0) :
      ArmResult s (s.holdDefaults.enterSkip .bwd 1)
  | output (h : s.skipMode = .run) : ArmResult s (s.holdDefaults.latchOutput s.cell)
  | count (sign : Sign) (h : s.skipMode = .skip) (hl : s.nextLevel sign ≠ 0) :
      ArmResult s (s.holdDefaults.setLevel (s.nextLevel sign))
  | endSkip (sign : Sign) (h : s.skipMode = .skip) (hl : s.nextLevel sign = 0) :
      ArmResult s (s.holdDefaults.setLevel (s.nextLevel sign)).leaveSkip

theorem tick_run {s a b : State} (h : s.skipMode = .run) : s.tick a b = .next (s.commit a) := by
  simp [State.tick, h]

theorem tick_skip {s a b : State} (h : s.skipMode = .skip) : s.tick a b = .next (s.commit b) := by
  simp [State.tick, h]

theorem scanLoopArm_result {s : State} (sign : Sign) (h : s.skipMode = .skip) :
    ArmResult s (scanLoopArm sign s) := by
  unfold scanLoopArm
  split
  · next hl => exact .endSkip sign h hl
  · next hl => exact .count sign h hl

theorem openArm_result {s : State} (h : s.skipMode = .run) : ArmResult s (openArm s) := by
  unfold openArm
  split
  · next hz => exact .enterForward h ((isZero_iff s).1 hz)
  · exact .inert

theorem closeArm_result {s : State} (h : s.skipMode = .run) : ArmResult s (closeArm s) := by
  unfold closeArm
  split
  · exact .inert
  · next hz => exact .enterBackward h fun hc => hz ((isZero_iff s).2 hc)

/-- Every instruction answers a next state: the commit of one arm. -/
theorem exec_next (i : Instr) (s : State) :
    ∃ a, ArmResult s a ∧ exec i s = .next (s.commit a) := by
  cases hm : s.skipMode with
  | run =>
    cases i with
    | moveRight => exact ⟨_, .move .zero hm, tick_run hm⟩
    | moveLeft => exact ⟨_, .move .one hm, tick_run hm⟩
    | increment => exact ⟨_, .update .zero hm, tick_run hm⟩
    | decrement => exact ⟨_, .update .one hm, tick_run hm⟩
    | loopOpen => exact ⟨_, openArm_result hm, tick_run hm⟩
    | loopClose => exact ⟨_, closeArm_result hm, tick_run hm⟩
    | output => exact ⟨_, .output hm, tick_run hm⟩
    | comma => exact ⟨_, .inert, tick_run hm⟩
    | nopPad => exact ⟨_, .inert, tick_run hm⟩
    | nop _ => exact ⟨_, .inert, tick_run hm⟩
  | skip =>
    cases i with
    | moveRight => exact ⟨_, .inert, tick_skip hm⟩
    | moveLeft => exact ⟨_, .inert, tick_skip hm⟩
    | increment => exact ⟨_, .inert, tick_skip hm⟩
    | decrement => exact ⟨_, .inert, tick_skip hm⟩
    | loopOpen => exact ⟨_, scanLoopArm_result .one hm, tick_skip hm⟩
    | loopClose => exact ⟨_, scanLoopArm_result .zero hm, tick_skip hm⟩
    | output => exact ⟨_, .inert, tick_skip hm⟩
    | comma => exact ⟨_, .inert, tick_skip hm⟩
    | nopPad => exact ⟨_, .inert, tick_skip hm⟩
    | nop _ => exact ⟨_, .inert, tick_skip hm⟩

/-- The dispatch of 40_control.md R68 as one function of the mode, the opcode and the sign. -/
def dispatchArm (s : State) : Mode → Opcode → Sign → State
  | .run, .move, sign => moveArm sign s
  | .run, .update, sign => updateArm sign s
  | .run, .loop, .one => openArm s
  | .run, .loop, .zero => closeArm s
  | .run, .out, _ => outArm s
  | .run, .nop, _ => inertArm s
  | .skip, .loop, sign => scanLoopArm sign s
  | .skip, .move, _ => inertArm s
  | .skip, .update, _ => inertArm s
  | .skip, .out, _ => inertArm s
  | .skip, .nop, _ => inertArm s

/-- What `exec` answers, for every instruction at once. -/
theorem exec_eq_commit (i : Instr) (s : State) :
    exec i s = .next (s.commit (dispatchArm s s.skipMode i.opcode i.sign)) := by
  cases hm : s.skipMode with
  | run => cases i <;> exact tick_run hm
  | skip => cases i <;> exact tick_skip hm

/-- The opcode table gives the Decoder's outputs (30_encoding.md R47, R58). -/
theorem decodeOp_eq (b : Byte) : decodeOp b = ((decodeByte b).opcode, (decodeByte b).sign) := by
  unfold decodeByte decodeOp
  repeat' split
  all_goals simp_all [Instr.opcode, Instr.sign]

theorem step_of_rst {s : State} (h : s.rstNow = true) : step s = .next s.takeRst.externalReset := by
  simp [step, h]

theorem step_of_not_rst {s : State} (h : s.rstNow = false) : step s = exec s.fetchInstr s.takeRst := by
  simp [step, h]

/-- What a step answers when it is no reset tick, by the Decoder's outputs. -/
theorem step_eq_commit {s : State} (h : s.rstNow = false) :
    step s = .next (s.takeRst.commit
      (dispatchArm s.takeRst s.skipMode (decodeOp s.fetchByte).1 (decodeOp s.fetchByte).2)) := by
  rw [step_of_not_rst h, exec_eq_commit, decodeOp_eq]
  rfl

/-- Everything a step can do. -/
theorem step_cases {s t : State} (h : step s = .next t) :
    (s.rstNow = true ∧ t = s.takeRst.externalReset) ∨
      (s.rstNow = false ∧ ∃ a, ArmResult s.takeRst a ∧ t = s.takeRst.commit a) := by
  cases hr : s.rstNow with
  | true =>
    rw [step_of_rst hr] at h
    cases h
    exact .inl ⟨rfl, rfl⟩
  | false =>
    rw [step_of_not_rst hr] at h
    obtain ⟨a, ha, he⟩ := exec_next s.fetchInstr s.takeRst
    rw [he] at h
    cases h
    exact .inr ⟨rfl, a, ha, rfl⟩

theorem noReset_rstNow {s : State} (h : s.NoReset) : s.rstNow = false := by
  unfold State.rstNow
  cases hr : s.rst with
  | nil => rfl
  | cons level levels => exact h level (by simp [hr])

theorem noReset_takeRst {s : State} (h : s.NoReset) : s.takeRst.NoReset :=
  fun level hl => h level (List.mem_of_mem_tail hl)

/-! ### Runs -/

@[simp] theorem ticks_zero {s t : State} : Ticks 0 s t ↔ s = t := Iff.rfl

theorem ticks_succ {n : Nat} {s t : State} : Ticks (n + 1) s t ↔ ∃ u, step s = .next u ∧ Ticks n u t := Iff.rfl

theorem ticks_add {m n : Nat} {s u : State} : Ticks (m + n) s u ↔ ∃ t, Ticks m s t ∧ Ticks n t u := by
  induction m generalizing s with
  | zero => simp
  | succ m ih =>
    rw [Nat.add_right_comm]
    simp only [ticks_succ, ih]
    constructor
    · rintro ⟨v, hv, t, hm, hn⟩
      exact ⟨t, ⟨v, hv, hm⟩, hn⟩
    · rintro ⟨t, ⟨v, hv, hm⟩, hn⟩
      exact ⟨v, hv, t, hm, hn⟩

theorem ticks_unique {n : Nat} {s t u : State} (h : Ticks n s t) (h' : Ticks n s u) : t = u := by
  induction n generalizing s with
  | zero => exact h.symm.trans h'
  | succ n ih =>
    obtain ⟨v, hv, h⟩ := h
    obtain ⟨w, hw, h'⟩ := h'
    cases hv.symm.trans hw
    exact ih h h'

/-- Every step answers a next state. -/
theorem step_next (s : State) : ∃ t, step s = .next t := by
  cases hr : s.rstNow with
  | true => exact ⟨_, step_of_rst hr⟩
  | false =>
    obtain ⟨a, -, he⟩ := exec_next s.fetchInstr s.takeRst
    exact ⟨_, (step_of_not_rst hr).trans he⟩

theorem core_run_of_step {M : Host.Core} {n : Nat} {s u : M.State} (h : M.step s = .next u) :
    M.run (n + 1) s = M.run n u := by
  rw [Host.Core.run, h]

/-- A run in the words of the claims is a run of the host's interface. -/
theorem ticks_iff_core_run {n : Nat} {s t : State} :
    Ticks n s t ↔ Host.Core.run Sys2Proof.core n s = .next t := by
  induction n generalizing s with
  | zero => exact ⟨fun h => h ▸ rfl, fun h => Host.Outcome.next.inj h⟩
  | succ n ih =>
    obtain ⟨u, hu⟩ := step_next s
    have hrun := core_run_of_step (M := Sys2Proof.core) (n := n) hu
    constructor
    · rintro ⟨v, hv, ht⟩
      cases hu.symm.trans hv
      exact hrun.trans (ih.1 ht)
    · exact fun h => ⟨u, hu, ih.2 (hrun.symm.trans h)⟩

end Sys2Proof.Machine
end

