-- ==== Sys2Proof/Laws/PerInstr.lean ====
section
/-! SUPPORT. What holds of every instruction as syntax, one lemma for each constructor: the byte that encodes it drives the
Decoder's outputs to its opcode and its sign (30_encoding.md R47, R58). -/

namespace Sys2Proof.Laws.DecoderOutputs

/-- The Decoder reads the byte of a well-formed instruction as that instruction's opcode and sign. -/
def Statement (i : Instr) : Prop :=
  i.wellFormed = true → decodeOp (encodeByte i) = (i.opcode, i.sign)

theorem moveRight : Statement .moveRight := fun _ => by decide

theorem moveLeft : Statement .moveLeft := fun _ => by decide

theorem increment : Statement .increment := fun _ => by decide

theorem decrement : Statement .decrement := fun _ => by decide

theorem loopOpen : Statement .loopOpen := fun _ => by decide

theorem loopClose : Statement .loopClose := fun _ => by decide

theorem output : Statement .output := fun _ => by decide

theorem comma : Statement .comma := fun _ => by decide

theorem nopPad : Statement .nopPad := fun _ => by decide

theorem nop (b : Byte) : Statement (.nop b) := fun h => by
  simp [Instr.wellFormed, ownRowBytes] at h
  simp [encodeByte, decodeOp, Instr.opcode, Instr.sign, h]

end Sys2Proof.Laws.DecoderOutputs
end

