-- ==== Sys2Proof/Tests/Slice0.lean ====
section
/-! SUPPORT. The author's tests and the witnesses of the statements. The expected results are those of spec/: the encoding
table of 30_encoding.md R47 and R48 and the vectors of 95_test_vectors.md (V6 and V9 to V16), by their numbers. -/

namespace Sys2Proof.Tests

open Sys2Proof.Machine

/-! ### Small machines -/

/-- Parameters of the one-step vectors: 16 program bytes, 4 cells, a 4-bit level. -/
def small : Params := ⟨4, 2, 4, 0x00⟩

/-- A machine at construction over a program and a tape. -/
def machine (code tape : List Byte) : State :=
  State.initial small (Memory.ofBytes 0 code) (Memory.ofBytes 0 tape)

/-- A machine in RUN mode, its first cell given. -/
def running (pc ptr : Nat) (cell : Byte) : State := { machine [] [cell] with pc := pc, ptr := ptr }

/-- A machine in SKIP mode. -/
def skipping (pc : Nat) (d : Direction) (level : Int) : State :=
  { machine [] [0x41] with pc := pc, skipMode := .skip, scanDirection := d, skipLevel := level }

/-- A machine at the one-step vectors' place, `pc = 6`, over one program byte there and a first cell. -/
def placed (b cell : Byte) : State :=
  { machine (List.replicate 6 0x00 ++ [b]) [cell] with pc := 6 }

/-- The next state of an outcome, where it is one. -/
def nextOf : Host.Outcome State Fault Refusal → Option State
  | .next t => some t
  | .fault _ => none
  | .refused _ => none

/-- A view of the next state of one instruction. -/
def after {α : Type} (i : Instr) (s : State) (view : State → α) : Option α := (nextOf (exec i s)).map view

/-- `skipMode`, `scanDirection`, `skipLevel` and `pc`, the columns of V12 and V13. -/
def skipView (t : State) : Mode × Direction × Int × Nat := (t.skipMode, t.scanDirection, t.skipLevel, t.pc)

/-! ### WellFormed: an ill-formed term for each byte that has a row of its own -/

theorem test_wellFormed_refuses_own_rows :
    (Instr.nop 0x3E).wellFormed = false ∧ (Instr.nop 0x3C).wellFormed = false ∧
    (Instr.nop 0x2B).wellFormed = false ∧ (Instr.nop 0x2D).wellFormed = false ∧
    (Instr.nop 0x5B).wellFormed = false ∧ (Instr.nop 0x5D).wellFormed = false ∧
    (Instr.nop 0x2E).wellFormed = false ∧ (Instr.nop 0x2C).wellFormed = false ∧
    (Instr.nop 0x00).wellFormed = false := by decide

theorem test_wellFormed_accepts :
    (Instr.nop 0x41).wellFormed = true ∧ (Instr.nop 0xFF).wellFormed = true ∧
    Instr.comma.wellFormed = true ∧ Instr.nopPad.wellFormed = true := by decide

/-! ### Decoding: each constructor's byte in binary, from R48, and V9 -/

theorem test_decode_moveRight : decode [0b00111110] = .ok (.moveRight, []) := by rfl
theorem test_decode_moveLeft : decode [0b00111100] = .ok (.moveLeft, []) := by rfl
theorem test_decode_increment : decode [0b00101011, 0x00] = .ok (.increment, [0x00]) := by rfl
theorem test_decode_decrement : decode [0b00101101] = .ok (.decrement, []) := by rfl
theorem test_decode_loopOpen : decode [0b01011011] = .ok (.loopOpen, []) := by rfl
theorem test_decode_loopClose : decode [0b01011101] = .ok (.loopClose, []) := by rfl
theorem test_decode_output : decode [0b00101110] = .ok (.output, []) := by rfl
theorem test_decode_comma : decode [0b00101100] = .ok (.comma, []) := by rfl
theorem test_decode_nopPad : decode [0b00000000] = .ok (.nopPad, []) := by rfl
theorem test_decode_nop : decode [0b01000001] = .ok (.nop 0x41, []) := by rfl
theorem test_decode_nothing : decode [] = .error .noByte := by rfl

/-- V9, the NOP rows: `0`, `=`, the backslash, `+` with bit 7 set, and the last byte. -/
theorem test_V9_nops :
    decodeOp 0x2C = (.nop, .zero) ∧ decodeOp 0x00 = (.nop, .zero) ∧ decodeOp 0x30 = (.nop, .zero) ∧
    decodeOp 0x3D = (.nop, .zero) ∧ decodeOp 0x5C = (.nop, .zero) ∧ decodeOp 0xAB = (.nop, .zero) ∧
    decodeOp 0xFF = (.nop, .zero) := by decide

/-- V9, the operations. -/
theorem test_V9_operations :
    decodeOp 0x3E = (.move, .zero) ∧ decodeOp 0x3C = (.move, .one) ∧
    decodeOp 0x2B = (.update, .zero) ∧ decodeOp 0x2D = (.update, .one) ∧
    decodeOp 0x5D = (.loop, .zero) ∧ decodeOp 0x5B = (.loop, .one) ∧
    decodeOp 0x2E = (.out, .zero) := by decide

/-- The words of spec/opcode_table.json, numbered as the table numbers them. -/
theorem test_table_words :
    decodeTableWord 8 62 = some .moveRight ∧ decodeTableWord 8 60 = some .moveLeft ∧
    decodeTableWord 8 43 = some .increment ∧ decodeTableWord 8 45 = some .decrement ∧
    decodeTableWord 8 91 = some .loopOpen ∧ decodeTableWord 8 93 = some .loopClose ∧
    decodeTableWord 8 46 = some .output ∧ decodeTableWord 8 44 = some .comma ∧
    decodeTableWord 8 0 = some .nopPad ∧ decodeTableWord 8 0x41 = some (.nop 0x41) := by decide

/-! ### The Assembler (V6) and construction -/

theorem test_V6_images :
    assemble [] = [0x00, 0x00] ∧
    assemble ['a', '+', 'b', '-', 'c'] = [0x00, 0x00, 0x2B, 0x2D] ∧
    assemble ['[', ' ', 'l', 'o', 'o', 'p', ' ', ']', '\n'] = [0x00, 0x00, 0x5B, 0x5D] ∧
    assemble [',', '.', ','] = [0x00, 0x00, 0x2C, 0x2E, 0x2C] ∧
    assemble ['0', '1', '2', '3'] = [0x00, 0x00] ∧
    assemble ['<', '\\', '>'] = [0x00, 0x00, 0x3C, 0x3E] := by decide

/-- R6 and R57: what construction refuses. -/
theorem test_construct_refuses :
    construct ⟨0, 1, 2, 0⟩ [] [] [] = .refused .parameterOutOfRange ∧
    construct ⟨1, 1, 1, 0⟩ [] [] [] = .refused .parameterOutOfRange ∧
    construct ⟨1, 1, 2, 0⟩ [0, 0, 0] [] [] = .refused .imageTooLong ∧
    construct ⟨1, 1, 2, 0⟩ [0, 0] [0] [] = .refused .paddingTooLong ∧
    construct ⟨1, 1, 2, 0⟩ [0, 0] [] [0, 0, 0] = .refused .tapeTooLong ∧
    construct ⟨1, 1, 2, 0⟩ [0, 0x2B] [] [] = .refused .warmUpNotNop := by
  refine ⟨rfl, rfl, rfl, rfl, rfl, rfl⟩

/-- A construction: source `+.` in 8 program bytes, padding `]`, one cell given. -/
def built : State :=
  State.initial ⟨3, 2, 4, 0x07⟩ [(2, 0x2B), (3, 0x2E), (4, 0x5D)] [(0, 0x05)]

theorem test_construct_admits :
    construct ⟨3, 2, 4, 0x07⟩ (assemble ['+', '.']) [0x5D] [0x05] = .next built := by rfl

/-! ### MOVE (V10) -/

theorem test_V10_moveRight :
    after .moveRight (running 6 0 0) (fun t => (t.ptr, t.pc)) = some (1, 7) ∧
    after .moveRight (running 6 3 0) State.ptr = some 0 := by decide

theorem test_V10_moveRight_inert :
    after .moveRight { skipping 6 .fwd (-1) with ptr := 2 } (fun t => (t.ptr, skipView t)) =
      some (2, .skip, .fwd, -1, 7) := by decide

theorem test_V10_moveLeft :
    after .moveLeft (running 6 0 0) State.ptr = some 3 ∧
    after .moveLeft (running 6 2 0) State.ptr = some 1 := by decide

theorem test_V10_moveLeft_inert :
    after .moveLeft { skipping 6 .bwd 1 with ptr := 2 } (fun t => (t.ptr, skipView t)) =
      some (2, .skip, .bwd, 1, 5) := by decide

/-! ### UPDATE (V11) -/

theorem test_V11_increment :
    after .increment (running 6 0 0x00) State.cell = some 0x01 ∧
    after .increment (running 6 0 0xFF) State.tape = some [] ∧
    after .increment (running 6 0 0x7F) State.cell = some 0x80 := by decide

theorem test_V11_increment_inert :
    after .increment (skipping 6 .bwd 3) (fun t => (t.cell, skipView t)) =
      some (0x41, .skip, .bwd, 3, 5) := by decide

theorem test_V11_decrement :
    after .decrement (running 6 0 0x00) State.cell = some 0xFF ∧
    after .decrement (running 6 0 0x01) State.cell = some 0x00 := by decide

/-- P2: the cell that is written is the one at `ptr`, not cell 0. -/
theorem test_P2_decrement_at_ptr :
    after .decrement (running 6 3 0x05) State.tape = some [(0, 0x05), (3, 0xFF)] := by decide

/-! ### LOOP in RUN mode (V12) and in SKIP mode (V13) -/

theorem test_V12_loopOpen :
    after .loopOpen (running 6 0 0x00) skipView = some (.skip, .fwd, -1, 7) ∧
    after .loopOpen (running 6 0 0x01) skipView = some (.run, .fwd, 0, 7) ∧
    after .loopOpen (running 6 0 0xFF) skipView = some (.run, .fwd, 0, 7) := by decide

theorem test_V12_loopClose :
    after .loopClose (running 6 0 0x00) skipView = some (.run, .fwd, 0, 7) ∧
    after .loopClose (running 6 0 0x01) skipView = some (.skip, .bwd, 1, 5) ∧
    after .loopClose (running 6 0 0x80) skipView = some (.skip, .bwd, 1, 5) ∧
    after .loopClose (running 0 0 0x01) skipView = some (.skip, .bwd, 1, 15) := by decide

theorem test_V13_loopOpen :
    after .loopOpen (skipping 6 .fwd (-1)) skipView = some (.skip, .fwd, -2, 7) ∧
    after .loopOpen (skipping 6 .bwd 1) skipView = some (.run, .fwd, 0, 7) ∧
    after .loopOpen (skipping 6 .bwd 2) skipView = some (.skip, .bwd, 1, 5) ∧
    after .loopOpen (skipping 6 .fwd (-8)) skipView = some (.skip, .fwd, 7, 7) := by decide

theorem test_V13_loopClose :
    after .loopClose (skipping 6 .fwd (-1)) skipView = some (.run, .fwd, 0, 7) ∧
    after .loopClose (skipping 6 .fwd (-2)) skipView = some (.skip, .fwd, -1, 7) ∧
    after .loopClose (skipping 6 .bwd 1) skipView = some (.skip, .bwd, 2, 5) ∧
    after .loopClose (skipping 6 .bwd 7) skipView = some (.skip, .bwd, -8, 5) := by decide

/-! ### OUT (V14) and NOP (V15) -/

theorem test_V14_output :
    after .output (running 6 0 0x41) (fun t => (t.outputByte, t.outputValid)) = some (0x41, true) ∧
    after .output { running 6 0 0x00 with outputByte := 0x07 } (fun t => (t.outputByte, t.outputValid)) =
      some (0x00, true) := by decide

theorem test_V14_output_inert :
    after .output { skipping 6 .fwd (-1) with outputByte := 0x07, outputValid := true }
      (fun t => (t.outputByte, t.outputValid)) = some (0x07, false) := by decide

/-- V14, the auto-clear: an instruction after a `.`. -/
theorem test_V14_auto_clear :
    after .comma { running 6 0 0x41 with outputByte := 0x07, outputValid := true }
      (fun t => (t.outputByte, t.outputValid)) = some (0x07, false) := by decide

theorem test_V15_comma : after .comma (running 2 0 0x05) (fun t => (t.pc, t.tape)) = some (3, [(0, 0x05)]) := by decide

theorem test_V15_nop : after (.nop 0x41) (running 9 0 0x05) State.pc = some 10 := by decide

theorem test_nopPad_wraps : after .nopPad (running 15 0 0x05) State.pc = some 0 := by decide

/-! ### A step: fetch, the host's load, the reset input, the port registers -/

theorem test_step_fetches_at_pc :
    (nextOf (step (placed 0x2B 0x7F))).map (fun t => (t.pc, t.cell)) = some (7, 0x80) := by decide

/-- Every row runs as the first instruction after reset. -/
theorem test_withFetchWord_runs_first :
    nextOf (step (State.reset.withFetchWord 8 62)) = nextOf (exec .moveRight (State.reset.withFetchWord 8 62)) ∧
    (nextOf (step (State.reset.withFetchWord 8 60))).map State.ptr = some 65535 ∧
    (nextOf (step (State.reset.withFetchWord 8 43))).map State.cell = some 0x01 ∧
    (nextOf (step (State.reset.withFetchWord 8 45))).map State.cell = some 0xFF ∧
    (nextOf (step (State.reset.withFetchWord 8 91))).map skipView = some (.skip, .fwd, -1, 1) ∧
    (nextOf (step (State.reset.withFetchWord 8 93))).map skipView = some (.run, .fwd, 0, 1) ∧
    (nextOf (step (State.reset.withFetchWord 8 46))).map State.outputValid = some true ∧
    (nextOf (step (State.reset.withFetchWord 8 44))).map State.pc = some 1 ∧
    (nextOf (step (State.reset.withFetchWord 8 0))).map State.pc = some 1 ∧
    (nextOf (step (State.reset.withFetchWord 8 0x41))).map State.pc = some 1 := by decide

/-- R100: a reset tick over a `+` writes no cell; the next level of the input stays in the list. -/
theorem test_reset_tick :
    nextOf (step { placed 0x2B 0x05 with rst := [true, false], ptr := 2, outputByte := 0x09 }) =
      some { placed 0x2B 0x05 with pc := 0, rst := [false] } := by decide

/-- R43 to R45: the write-first read shows the cell that this tick wrote. -/
theorem test_port_registers :
    after .increment (running 6 0 0x05) (fun t => (t.codeQ, t.tapeQ)) = some (0x00, 0x06) ∧
    nextOf (portStep { placed 0x2B 0x05 with codeQ := 0x2B, tapeQ := 0x05 }) =
      nextOf (step (placed 0x2B 0x05)) := by decide

/-! ### Witnesses: for each statement with hypotheses, states and operands that meet all of them together -/

/-- The state that `n` ticks reach. -/
def runTo : Nat → State → State
  | 0, s => s
  | n + 1, s =>
    match step s with
    | .next t => runTo n t
    | .fault _ => s
    | .refused _ => s

theorem ticks_runTo (n : Nat) (s : State) : Ticks n s (runTo n s) := by
  induction n generalizing s with
  | zero => rfl
  | succ n ih =>
    obtain ⟨t, ht⟩ := step_next s
    have h : runTo (n + 1) s = runTo n t := by rw [runTo, ht]
    exact ⟨t, ht, h ▸ ih t⟩

/-- What holds of the state that `n` ticks reach holds of every such state. -/
theorem forall_ticks {n : Nat} {s : State} {P : State → Prop} (h : P (runTo n s)) (t : State)
    (ht : Ticks n s t) : P t :=
  ticks_unique (ticks_runTo n s) ht ▸ h

theorem witness_DecodeOfEncodeIsTheInstruction :
    Instr.loopOpen.wellFormed = true ∧ (Instr.nop 0xFF).wellFormed = true := by decide

theorem witness_EncodeOfDecodeIsTheBytes :
    decode [0x2B, 0x2E] = .ok (.increment, [0x2E]) ∧ decode [0x3D] = .ok (.nop 0x3D, []) ∧
      ([0x3D] : List Byte) ≠ [] := ⟨rfl, rfl, by decide⟩

theorem witness_ExactlySevenBytesSelectAnOperation :
    (0x3E : Byte) ∈ ([0x3E, 0x3C, 0x2B, 0x2D, 0x5B, 0x5D, 0x2E] : List Byte) ∧
    (0x3D : Byte) ∉ ([0x3E, 0x3C, 0x2B, 0x2D, 0x5B, 0x5D, 0x2E] : List Byte) := by decide

/-- An image that fills its store. -/
theorem witness_AssembledImageIsAdmitted :
    Params.Wf ⟨2, 1, 2, 0⟩ ∧ (assemble ['+', '.']).length ≤ Params.codeSize ⟨2, 1, 2, 0⟩ := by decide

/-- Both clauses with padding and an initial tape; the last two are the short images of log entry 24. -/
theorem witness_ConstructRefusesInadmissibleImage :
    Params.Wf ⟨1, 1, 2, 0⟩ ∧ Params.codeSize ⟨1, 1, 2, 0⟩ < ([0, 0, 0] : List Byte).length ∧
    (([0x2B, 0] : List Byte).length + ([] : List Byte).length ≤ Params.codeSize ⟨1, 1, 2, 0⟩ ∧
      ([5, 5] : List Byte).length ≤ Params.tapeSize ⟨1, 1, 2, 0⟩ ∧
      (decodeOp ((([0x2B, 0] : List Byte) ++ []).getD 0 0x00)).1 ≠ .nop) ∧
    (([0] : List Byte).length + ([0x2B] : List Byte).length ≤ Params.codeSize ⟨1, 1, 2, 0⟩ ∧
      (decodeOp ((([0] : List Byte) ++ [0x2B]).getD 1 0x00)).1 ≠ .nop) ∧
    ([] : List Byte).length + ([0x5D] : List Byte).length ≤ Params.codeSize ⟨1, 1, 2, 0⟩ ∧
      (decodeOp ((([] : List Byte) ++ [0x5D]).getD 0 0x00)).1 ≠ .nop := by decide

/-- Of ConstructionFillsBothMemories, ExecutionStartsAtAddressZero, ConstructionRegisterDefaults,
ConstructionHasInvariant and WarmUpTakesTwoTicks. -/
theorem witness_construction :
    construct ⟨3, 2, 4, 0x07⟩ (assemble ['+', '.']) [0x5D] [0x05] = .next built := by rfl

theorem witness_StepRunsTheDecodedInstruction :
    Instr.increment.wellFormed = true ∧ (placed 0x2B 0).rstNow = false ∧
    (placed 0x2B 0).readCode (placed 0x2B 0).pc = encodeByte .increment ∧
    (Instr.nop 0x41).wellFormed = true ∧
    { placed 0x41 0 with rst := [false, true] }.rstNow = false ∧
    (placed 0x41 0).readCode (placed 0x41 0).pc = encodeByte (.nop 0x41) := by decide

theorem witness_EveryRunExistsAndIsUnique : Ticks 3 built (runTo 3 built) := ticks_runTo 3 built

theorem witness_ResetTickRestartsOverTheSameTape :
    { placed 0x2B 0x05 with rst := [true, false] }.rst = true :: [false] := rfl

/-- Of MoveRightResult and MoveLeftResult, at both ends of the tape. -/
theorem witness_MoveResults :
    ((running 15 3 0).ModeInv ∧ (running 15 3 0).InWidths ∧ (running 15 3 0).skipMode = .run) ∧
    (running 0 0 0).ModeInv ∧ (running 0 0 0).InWidths ∧ (running 0 0 0).skipMode = .run := by decide

/-- Of IncrementResult, DecrementResult and WriteIsSeenByTheNextTick; cell 1 is another cell. -/
theorem witness_UpdateResults :
    (running 15 0 0xFF).ModeInv ∧ (running 15 0 0xFF).MemoriesWf ∧ (running 15 0 0xFF).skipMode = .run ∧
    1 % 2 ^ (running 15 0 0xFF).params.tapeAddrBits ≠
      (running 15 0 0xFF).ptr % 2 ^ (running 15 0 0xFF).params.tapeAddrBits := by decide

/-- Of OpenInRunMode and CloseInRunMode, each with both cells, and `pc` at both ends of the store. -/
theorem witness_LoopInRunMode :
    ((running 0 0 0).ModeInv ∧ (running 0 0 0).InWidths ∧ (running 0 0 0).skipMode = .run ∧
      (running 0 0 0).readTape (running 0 0 0).ptr = 0) ∧
    (running 0 0 1).ModeInv ∧ (running 0 0 1).InWidths ∧ (running 0 0 1).skipMode = .run ∧
      (running 0 0 1).readTape (running 0 0 1).ptr ≠ 0 := by decide

/-- Of OpenInSkipMode: the last `[`, the level at its lower bound, and `pc = 0` in a backward scan. -/
theorem witness_OpenInSkipMode :
    small.Wf ∧ (skipping 0 .bwd 1).params = small ∧
    ((skipping 0 .bwd 1).InWidths ∧ (skipping 0 .bwd 1).skipMode = .skip ∧ (skipping 0 .bwd 1).skipLevel = 1) ∧
    ((skipping 15 .fwd (-8)).InWidths ∧ (skipping 15 .fwd (-8)).skipMode = .skip ∧
      (skipping 15 .fwd (-8)).skipLevel ≠ 1) ∧
    (skipping 0 .bwd 2).InWidths ∧ (skipping 0 .bwd 2).skipMode = .skip ∧ (skipping 0 .bwd 2).skipLevel ≠ 1 := by
  decide

/-- Of CloseInSkipMode: the last `]`, the level at its upper bound, and `pc = 0` in a backward scan. -/
theorem witness_CloseInSkipMode :
    (skipping 15 .fwd (-1)).params.Wf ∧
    ((skipping 15 .fwd (-1)).InWidths ∧ (skipping 15 .fwd (-1)).skipMode = .skip ∧
      (skipping 15 .fwd (-1)).skipLevel = -1) ∧
    ((skipping 0 .bwd 7).InWidths ∧ (skipping 0 .bwd 7).skipMode = .skip ∧ (skipping 0 .bwd 7).skipLevel ≠ -1) ∧
    (skipping 6 .fwd (-2)).InWidths ∧ (skipping 6 .fwd (-2)).skipMode = .skip ∧
      (skipping 6 .fwd (-2)).skipLevel ≠ -1 := by decide

theorem witness_OutputResult :
    (running 15 0 0x41).ModeInv ∧ (running 15 0 0x41).skipMode = .run := by decide

theorem witness_NopResult :
    (Instr.comma ∈ [Instr.comma, .nopPad] ∨ ∃ b, Instr.comma = .nop b) ∧
    (Instr.nop 0x41 ∈ [Instr.comma, .nopPad] ∨ ∃ b, Instr.nop 0x41 = .nop b) ∧
    (running 15 0 0).ModeInv ∧ (running 15 0 0).skipMode = .run :=
  ⟨.inl (by decide), .inr ⟨0x41, rfl⟩, by decide, by decide⟩

theorem witness_OnlyLoopActsInSkipMode :
    Instr.output.opcode ≠ .loop ∧
    ((skipping 0 .bwd 1).InWidths ∧ (skipping 0 .bwd 1).skipMode = .skip) ∧
    (skipping 15 .fwd (-1)).InWidths ∧ (skipping 15 .fwd (-1)).skipMode = .skip := by decide

/-- Of the three frames, PcMovesByOneInCommittedDirection and SkipLevelIsTwosComplement: an instruction of each class and
its next state, in both modes. -/
theorem witness_frames :
    (Instr.moveRight.opcode = .move ∧ ∃ t, exec .moveRight (running 6 3 0) = .next t) ∧
    (Instr.output.opcode = .out ∧ ∃ t, exec .output (skipping 6 .bwd 1) = .next t) ∧
    (Instr.comma.opcode = .nop ∧ ∃ t, exec .comma (running 6 0 0) = .next t) ∧
    (Instr.increment.opcode = .update ∧ ∃ t, exec .increment (running 6 0 0) = .next t) ∧
    (Instr.decrement.opcode = .update ∧ ∃ t, exec .decrement (skipping 6 .bwd 1) = .next t) ∧
    (Instr.loopOpen.opcode = .loop ∧ ∃ t, exec .loopOpen (running 6 0 0) = .next t) ∧
    (Instr.loopOpen.opcode = .loop ∧ ∃ t, exec .loopOpen (skipping 6 .fwd (-8)) = .next t) ∧
    (Instr.loopClose.opcode = .loop ∧ ∃ t, exec .loopClose (skipping 6 .bwd 7) = .next t) := by
  refine ⟨⟨rfl, _, rfl⟩, ⟨rfl, _, rfl⟩, ⟨rfl, _, rfl⟩, ⟨rfl, _, rfl⟩, ⟨rfl, _, rfl⟩, ⟨rfl, _, rfl⟩, ⟨rfl, _, rfl⟩,
    ⟨rfl, _, rfl⟩⟩

/-- Of PcMovesByOneInCommittedDirection, both directions. -/
theorem witness_PcMovesByOneInCommittedDirection :
    after .loopClose (running 0 0 1) State.scanDirection = some .bwd ∧
    after .loopOpen (skipping 15 .bwd 1) State.scanDirection = some .fwd := by decide

/-- Of the rules of the registers over every step: an executed `.`, `>`, `<`, `+`, `[` and `]`, and a byte scanned. -/
theorem witness_register_rules :
    ((placed 0x2E 5).rstNow = false ∧ (placed 0x2E 5).skipMode = .run ∧ ∃ t, step (placed 0x2E 5) = .next t) ∧
    (decodeOp ((placed 0x3E 5).readCode (placed 0x3E 5).pc) = (.move, .zero) ∧ ∃ t, step (placed 0x3E 5) = .next t) ∧
    (decodeOp ((placed 0x3C 5).readCode (placed 0x3C 5).pc) = (.move, .one) ∧ ∃ t, step (placed 0x3C 5) = .next t) ∧
    ((decodeOp ((placed 0x2B 5).readCode (placed 0x2B 5).pc)).1 ≠ .move ∧ ∃ t, step (placed 0x2B 5) = .next t) ∧
    (skipping 6 .bwd 1).rstNow = false ∧ (skipping 6 .bwd 1).skipMode = .skip ∧
      ∃ t, step (skipping 6 .bwd 1) = .next t := by
  refine ⟨⟨rfl, rfl, _, rfl⟩, ⟨rfl, _, rfl⟩, ⟨rfl, _, rfl⟩, ⟨by decide, _, rfl⟩, rfl, rfl, _, rfl⟩

/-- Of ModeChangesOnlyAtBrackets: both ways into SKIP mode, and the way out. -/
theorem witness_ModeChangesOnlyAtBrackets :
    (nextOf (step (placed 0x5B 0))).map State.skipMode = some .skip ∧
    (nextOf (step (placed 0x5D 1))).map State.skipMode = some .skip ∧
    (nextOf (step { placed 0x5D 1 with skipMode := .skip, skipLevel := -1 })).map
      (fun t => (t.skipMode, t.skipLevel)) = some (.run, 0) := by decide

theorem witness_TapeWrittenOnlyByUpdateAtPtr :
    ∃ t, step (placed 0x2B 5) = .next t ∧ t.readTape 4 ≠ (placed 0x2B 5).readTape 4 := ⟨_, rfl, by decide⟩

/-- Of DirectionTurnsAtSkipEnds: both cases. -/
theorem witness_DirectionTurnsAtSkipEnds :
    ((running 6 0 1).ModeInv ∧ ∃ t, exec .loopClose (running 6 0 1) = .next t ∧
      t.scanDirection ≠ (running 6 0 1).scanDirection) ∧
    (skipping 6 .bwd 1).ModeInv ∧ ∃ t, exec .loopOpen (skipping 6 .bwd 1) = .next t ∧
      t.scanDirection ≠ (skipping 6 .bwd 1).scanDirection := by
  refine ⟨⟨by decide, _, rfl, by decide⟩, by decide, _, rfl, by decide⟩

theorem witness_SkipLevelIsTwosComplement :
    (skipping 6 .fwd (-8)).params.Wf ∧ (skipping 6 .fwd (-8)).skipMode = .skip ∧
    after .loopOpen (skipping 6 .fwd (-8)) State.skipLevel = some 7 ∧
    after .loopClose (skipping 6 .fwd (-8)) State.skipLevel = some (-7) := by decide

theorem witness_MoveTapeSizeTimesReturnsPtr :
    Instr.moveLeft.opcode = .move ∧ (running 6 3 0).ModeInv ∧ (running 6 3 0).skipMode = .run ∧
    (running 6 3 0).ptr < 2 ^ (running 6 3 0).params.tapeAddrBits := by decide

theorem witness_Update256TimesReturnsTheTape :
    Instr.decrement.opcode = .update ∧ (running 6 0 0x2A).ModeInv ∧ (running 6 0 0x2A).MemoriesWf ∧
    (running 6 0 0x2A).skipMode = .run := by decide

theorem witness_SkipTickDoesNotReadTheTape : (skipping 6 .bwd 1).skipMode = .skip := rfl

/-- Of StepKeepsInvariant and StepKeepsModeInvariant: the step that enters a skip, and the one that ends it. -/
theorem witness_invariant_steps :
    ((placed 0x5D 1).Inv ∧ ∃ t, step (placed 0x5D 1) = .next t) ∧
    { placed 0x5B 1 with skipMode := .skip, scanDirection := .bwd, skipLevel := 1 }.Inv ∧
      ∃ t, step { placed 0x5B 1 with skipMode := .skip, scanDirection := .bwd, skipLevel := 1 } = .next t := by
  refine ⟨⟨by decide, _, rfl⟩, by decide, _, rfl⟩

theorem reachable_runTo (n : Nat) {s : State} (h : Reachable s) : Reachable (runTo n s) := by
  induction n generalizing s with
  | zero => exact h
  | succ n ih =>
    obtain ⟨t, ht⟩ := step_next s
    have e : runTo (n + 1) s = runTo n t := by rw [runTo, ht]
    exact e ▸ ih (h.step ht)

/-- A reachable state in SKIP mode: the padding `]` behind `+.` on the cell 6. -/
theorem witness_ReachableStatesSatisfyModeInvariant :
    Reachable (runTo 5 built) ∧ (runTo 5 built).skipMode = .skip :=
  ⟨reachable_runTo 5 (.constructed [] witness_construction), by decide⟩

theorem witness_CanonicalMemoriesReadingAlikeAreEqual :
    Memory.wf [(0, 0x05), (3, 0x01)] ∧
    ∀ a, Memory.read [(0, 0x05), (3, 0x01)] a = Memory.read [(0, 0x05), (3, 0x01)] a :=
  ⟨by decide, fun _ => rfl⟩

theorem witness_EveryTickLoadsThePortRegisters :
    (placed 0x2B 5).rstNow = false ∧ ∃ t, step (placed 0x2B 5) = .next t := ⟨rfl, _, rfl⟩

/-- Of PortStepIsStep: loaded port registers, and the stale `tapeQ` of a NOP. -/
theorem witness_PortStepIsStep :
    ({ placed 0x2B 5 with codeQ := 0x2B, tapeQ := 0x05 }.MemoriesWf ∧
      { placed 0x2B 5 with codeQ := 0x2B, tapeQ := 0x05 }.PortsAgree) ∧
    { placed 0x2C 5 with codeQ := 0x00, tapeQ := 0x09 }.MemoriesWf ∧
      { placed 0x2C 5 with codeQ := 0x00, tapeQ := 0x09 }.PortsAgree := by decide

/-- Of PortRunIsRun, FetchReturnsTheConstructionByte and PulsesAndExecutedOutsCorrespond, with a reset in the run:
the tick after the third executes the `.`. -/
theorem witness_runs_from_construction :
    construct ⟨3, 2, 4, 0x07⟩ (assemble ['+', '.']) [0x5D] [0x05] = .next built ∧
    Ticks 3 { built with rst := [] } (runTo 3 { built with rst := [] }) ∧
    (runTo 3 { built with rst := [] }).ExecutesOut ∧
    (∃ u, step (runTo 3 { built with rst := [] }) = .next u) ∧
    Ticks 3 { built with rst := [false, true] } (runTo 3 { built with rst := [false, true] }) :=
  ⟨rfl, ticks_runTo _ _, by decide, step_next _, ticks_runTo _ _⟩

/-- Of PortRegistersAreUnobservable and SkipLevelIsUnobservableInRunMode. -/
theorem witness_unobservable :
    Ticks 2 built (runTo 2 built) ∧ Ticks 2 { built with codeQ := 0x2E } (runTo 2 { built with codeQ := 0x2E }) ∧
    built.skipMode = .run := ⟨ticks_runTo _ _, ticks_runTo _ _, rfl⟩

/-- Of NopPaddingWrapsToAddressZero: two padding bytes before the end of the store. -/
theorem witness_NopPaddingWrapsToAddressZero :
    (running 14 3 5).ModeInv ∧ (running 14 3 5).NoReset ∧ (running 14 3 5).skipMode = .run ∧
    (running 14 3 5).pc < 2 ^ (running 14 3 5).params.codeAddrBits ∧
    ∀ a, (running 14 3 5).pc ≤ a → a < 2 ^ (running 14 3 5).params.codeAddrBits →
      (decodeOp ((running 14 3 5).readCode a)).1 = .nop := by
  refine ⟨by decide, by decide, by decide, by decide, fun a h1 h2 => ?_⟩
  have h1 : 14 ≤ a := h1
  have h2 : a < 16 := h2
  obtain rfl | rfl : a = 14 ∨ a = 15 := by omega
  · decide
  · decide

/-- A skip that ends at the third byte scanned: forward at `] `, over the wrap of `pc`. -/
def scanning : State :=
  { machine [0x5D] [] with pc := 14, skipMode := .skip, scanDirection := .fwd, skipLevel := -1 }

/-- Of SkipEndsWhereTheBracketCountReachesZero: both clauses, and a scan that counts over the wrap of the level. -/
theorem witness_SkipEndsWhereTheBracketCountReachesZero :
    (scanning.Inv ∧ scanning.NoReset ∧ scanning.skipMode = .skip ∧
      (∀ k, k ≤ 2 → (scanning.skipLevel - nesting (scanning.scanned k)).bmod
        (2 ^ scanning.params.skipLevelBits) ≠ 0) ∧
      (scanning.skipLevel - nesting (scanning.scanned (2 + 1))).bmod (2 ^ scanning.params.skipLevelBits) = 0) ∧
    { placed 0x5D 0 with skipMode := .skip, scanDirection := .bwd, skipLevel := 7 }.Inv ∧
    ∀ k, k ≤ 1 → ((7 : Int) - nesting
      ({ placed 0x5D 0 with skipMode := .skip, scanDirection := .bwd, skipLevel := 7 }.scanned k)).bmod
        (2 ^ small.skipLevelBits) ≠ 0 := by
  refine ⟨⟨by decide, by decide, by decide, fun k hk => ?_, by decide⟩, by decide, fun k hk => ?_⟩
  · obtain rfl | rfl | rfl : k = 0 ∨ k = 1 ∨ k = 2 := by omega
    · decide
    · decide
    · decide
  · obtain rfl | rfl : k = 0 ∨ k = 1 := by omega
    · decide
    · decide

/-- The body `+[-]`. -/
theorem balanced_body : Balanced [0x2B, 0x5B, 0x2D, 0x5D] :=
  .plain (by decide) (by decide) (.loop (.plain (by decide) (by decide) .empty) .empty)

/-- `[+[-]]` in the last six bytes of 16, and a level of 5 bits; RUN mode at `pc`. -/
def atLoop (pc : Nat) (cell : Byte) : State :=
  { State.initial ⟨4, 2, 5, 0x00⟩
      [(10, 0x5B), (11, 0x2B), (12, 0x5B), (13, 0x2D), (14, 0x5D), (15, 0x5D)]
      (Memory.ofBytes 0 [cell]) with pc := pc }

theorem holds_atLoop (pc : Nat) (cell : Byte) :
    (atLoop pc cell).HoldsAt 10 (0x5B :: ([0x2B, 0x5B, 0x2D, 0x5D] ++ [0x5D])) :=
  ⟨Nat.le_refl 16, fun j hj => by
    have hj : j < 6 := hj
    obtain rfl | rfl | rfl | rfl | rfl | rfl : j = 0 ∨ j = 1 ∨ j = 2 ∨ j = 3 ∨ j = 4 ∨ j = 5 := by omega
    all_goals rfl⟩

theorem witness_ForwardSkipEndsAtMatchingBracket :
    (atLoop 10 0).ModeInv ∧ (atLoop 10 0).NoReset ∧ (atLoop 10 0).params.Wf ∧ (atLoop 10 0).skipMode = .run ∧
    (atLoop 10 0).params.codeAddrBits + 1 ≤ (atLoop 10 0).params.skipLevelBits ∧
    (atLoop 10 0).HoldsAt (atLoop 10 0).pc (0x5B :: ([0x2B, 0x5B, 0x2D, 0x5D] ++ [0x5D])) ∧
    Balanced [0x2B, 0x5B, 0x2D, 0x5D] ∧ (atLoop 10 0).readTape (atLoop 10 0).ptr = 0 :=
  ⟨by decide, by decide, by decide, rfl, by decide, holds_atLoop 10 0, balanced_body, by decide⟩

theorem witness_BackwardSkipEndsAtMatchingBracket :
    (atLoop 15 1).ModeInv ∧ (atLoop 15 1).NoReset ∧ (atLoop 15 1).params.Wf ∧ (atLoop 15 1).skipMode = .run ∧
    (atLoop 15 1).params.codeAddrBits + 1 ≤ (atLoop 15 1).params.skipLevelBits ∧
    (atLoop 15 1).HoldsAt 10 (0x5B :: ([0x2B, 0x5B, 0x2D, 0x5D] ++ [0x5D])) ∧
    (atLoop 15 1).pc = 10 + 1 + ([0x2B, 0x5B, 0x2D, 0x5D] : List Byte).length ∧
    Balanced [0x2B, 0x5B, 0x2D, 0x5D] ∧ (atLoop 15 1).readTape (atLoop 15 1).ptr ≠ 0 :=
  ⟨by decide, by decide, by decide, rfl, by decide, holds_atLoop 15 1, rfl, balanced_body, by decide⟩

theorem witness_EveryBracketOfBalancedProgramHasItsMatch :
    Balanced [0x2B, 0x5B, 0x2D, 0x5D] ∧
    ([0x2B, 0x5B, 0x2D, 0x5D] : List Byte) = [0x2B] ++ 0x5B :: [0x2D, 0x5D] ∧
    ([0x2B, 0x5B, 0x2D, 0x5D] : List Byte) = [0x2B, 0x5B, 0x2D] ++ 0x5D :: [] :=
  ⟨balanced_body, rfl, rfl⟩

/-- The last three bytes of 16 hold `[-]`; RUN mode at the `[`. -/
def atStraightLoop (cell : Byte) : State :=
  { State.initial ⟨4, 2, 2, 0x00⟩ [(13, 0x5B), (14, 0x2D), (15, 0x5D)] (Memory.ofBytes 0 [cell]) with pc := 13 }

theorem holds_atStraightLoop (cell : Byte) :
    (atStraightLoop cell).HoldsAt (atStraightLoop cell).pc (0x5B :: ([0x2D] ++ [0x5D])) :=
  ⟨Nat.le_refl 16, fun j hj => by
    have hj : j < 3 := hj
    obtain rfl | rfl | rfl : j = 0 ∨ j = 1 ∨ j = 2 := by omega
    all_goals rfl⟩

/-- Of StraightLoopCost at its boundary `n = 1`: a cell of 1, which makes the body run once. -/
theorem witness_StraightLoopCost_once :
    (atStraightLoop 1).ModeInv ∧ (atStraightLoop 1).NoReset ∧ (atStraightLoop 1).params.Wf ∧
      (atStraightLoop 1).skipMode = .run ∧
      (atStraightLoop 1).HoldsAt (atStraightLoop 1).pc (0x5B :: ([0x2D] ++ [0x5D])) ∧
      (∀ b ∈ ([0x2D] : List Byte), b ≠ 0x5B ∧ b ≠ 0x5D) ∧
      (atStraightLoop 1).readTape (atStraightLoop 1).ptr ≠ 0 ∧
      (∀ j t, 1 ≤ j → j < 1 → Ticks (1 + 1 + (j - 1) * (2 * 1 + 2)) (atStraightLoop 1) t →
        t.readTape t.ptr ≠ 0) ∧
      ∀ t, Ticks (1 + 1 + (1 - 1) * (2 * 1 + 2)) (atStraightLoop 1) t → t.readTape t.ptr = 0 := by
  refine ⟨by decide, by decide, by decide, rfl, holds_atStraightLoop 1, by decide, by decide,
    fun j t h1 h2 => by omega, fun t ht => ?_⟩
  exact forall_ticks (P := fun t => t.readTape t.ptr = 0) (by decide) t ht

/-- Of StraightLoopCost: a zero cell, and a cell of 2, which makes the body run twice. -/
theorem witness_StraightLoopCost :
    ((atStraightLoop 0).ModeInv ∧ (atStraightLoop 0).NoReset ∧ (atStraightLoop 0).params.Wf ∧
      (atStraightLoop 0).skipMode = .run ∧
      (atStraightLoop 0).HoldsAt (atStraightLoop 0).pc (0x5B :: ([0x2D] ++ [0x5D])) ∧
      (∀ b ∈ ([0x2D] : List Byte), b ≠ 0x5B ∧ b ≠ 0x5D) ∧
      (atStraightLoop 0).readTape (atStraightLoop 0).ptr = 0) ∧
    (atStraightLoop 2).ModeInv ∧ (atStraightLoop 2).NoReset ∧ (atStraightLoop 2).params.Wf ∧
      (atStraightLoop 2).skipMode = .run ∧
      (atStraightLoop 2).HoldsAt (atStraightLoop 2).pc (0x5B :: ([0x2D] ++ [0x5D])) ∧
      (atStraightLoop 2).readTape (atStraightLoop 2).ptr ≠ 0 ∧
      (∀ j t, 1 ≤ j → j < 2 → Ticks (1 + 1 + (j - 1) * (2 * 1 + 2)) (atStraightLoop 2) t →
        t.readTape t.ptr ≠ 0) ∧
      ∀ t, Ticks (1 + 1 + (2 - 1) * (2 * 1 + 2)) (atStraightLoop 2) t → t.readTape t.ptr = 0 := by
  refine ⟨⟨by decide, by decide, by decide, rfl, holds_atStraightLoop 0, by decide, by decide⟩, by decide,
    by decide, by decide, rfl, holds_atStraightLoop 2, by decide, fun j t h1 h2 => ?_, fun t ht => ?_⟩
  · obtain rfl : j = 1 := by omega
    exact forall_ticks (P := fun t => t.readTape t.ptr ≠ 0) (by decide) t
  · exact forall_ticks (P := fun t => t.readTape t.ptr = 0) (by decide) t ht

end Sys2Proof.Tests
end

section
/-! What a tick does to each execution register (10_state.md R15 to R21): one equation a register, for the arm that
`dispatchArm` names and for the step that commits it. -/

namespace Sys2Proof.Machine

/-! ### The arms of LOOP, register by register -/

@[simp] theorem openArm_ptr (s : State) : (openArm s).ptr = s.ptr := by
  unfold openArm; split <;> rfl
@[simp] theorem openArm_outputByte (s : State) : (openArm s).outputByte = s.outputByte := by
  unfold openArm; split <;> rfl
@[simp] theorem openArm_outputValid (s : State) : (openArm s).outputValid = false := by
  unfold openArm; split <;> rfl
theorem openArm_skipMode (s : State) :
    (openArm s).skipMode = if s.cell = 0 then .skip else s.skipMode := by
  simp only [openArm, isZero_iff]; split <;> rfl
theorem openArm_scanDirection (s : State) :
    (openArm s).scanDirection = if s.cell = 0 then .fwd else s.scanDirection := by
  simp only [openArm, isZero_iff]; split <;> rfl

@[simp] theorem closeArm_ptr (s : State) : (closeArm s).ptr = s.ptr := by
  unfold closeArm; split <;> rfl
@[simp] theorem closeArm_outputByte (s : State) : (closeArm s).outputByte = s.outputByte := by
  unfold closeArm; split <;> rfl
@[simp] theorem closeArm_outputValid (s : State) : (closeArm s).outputValid = false := by
  unfold closeArm; split <;> rfl
theorem closeArm_skipMode (s : State) :
    (closeArm s).skipMode = if s.cell = 0 then s.skipMode else .skip := by
  simp only [closeArm, isZero_iff]; split <;> rfl
theorem closeArm_scanDirection (s : State) :
    (closeArm s).scanDirection = if s.cell = 0 then s.scanDirection else .bwd := by
  simp only [closeArm, isZero_iff]; split <;> rfl

@[simp] theorem scanLoopArm_ptr (sign : Sign) (s : State) : (scanLoopArm sign s).ptr = s.ptr := by
  unfold scanLoopArm; split <;> rfl
@[simp] theorem scanLoopArm_outputByte (sign : Sign) (s : State) :
    (scanLoopArm sign s).outputByte = s.outputByte := by
  unfold scanLoopArm; split <;> rfl
@[simp] theorem scanLoopArm_outputValid (sign : Sign) (s : State) :
    (scanLoopArm sign s).outputValid = false := by
  unfold scanLoopArm; split <;> rfl
@[simp] theorem scanLoopArm_skipLevel (sign : Sign) (s : State) :
    (scanLoopArm sign s).skipLevel = s.nextLevel sign := by
  unfold scanLoopArm; split <;> rfl
theorem scanLoopArm_skipMode (sign : Sign) (s : State) :
    (scanLoopArm sign s).skipMode = if s.nextLevel sign = 0 then .run else s.skipMode := by
  unfold scanLoopArm; split <;> rfl
theorem scanLoopArm_scanDirection (sign : Sign) (s : State) :
    (scanLoopArm sign s).scanDirection = if s.nextLevel sign = 0 then .fwd else s.scanDirection := by
  unfold scanLoopArm; split <;> rfl

/-! ### The arm that the dispatch names -/

theorem dispatchArm_ptr (s : State) (m : Mode) (op : Opcode) (sign : Sign) :
    (dispatchArm s m op sign).ptr =
      if m = .run ∧ op = .move then stepAddr s.params.tapeAddrBits sign s.ptr else s.ptr := by
  unfold dispatchArm
  split <;> simp [moveArm, updateArm, outArm, inertArm]

theorem dispatchArm_outputValid (s : State) (m : Mode) (op : Opcode) (sign : Sign) :
    (dispatchArm s m op sign).outputValid = true ↔ m = .run ∧ op = .out := by
  unfold dispatchArm
  split <;> simp [moveArm, updateArm, outArm, inertArm]

theorem dispatchArm_outputByte (s : State) (m : Mode) (op : Opcode) (sign : Sign) :
    (dispatchArm s m op sign).outputByte = if m = .run ∧ op = .out then s.cell else s.outputByte := by
  unfold dispatchArm
  split <;> simp [moveArm, updateArm, outArm, inertArm]

/-- SKIP mode is entered by a `[` on a zero cell and by a `]` on another (43_loop.md R73, R74). -/
theorem dispatchArm_enters_skip {s : State} (hm : s.skipMode = .run) (op : Opcode) (sign : Sign) :
    (dispatchArm s .run op sign).skipMode = .skip ↔
      (op, sign) = (.loop, .one) ∧ s.cell = 0 ∨ (op, sign) = (.loop, .zero) ∧ s.cell ≠ 0 := by
  cases op with
  | loop => cases sign <;> simp [dispatchArm, openArm_skipMode, closeArm_skipMode, hm]
  | move => simp [dispatchArm, moveArm, hm]
  | update => simp [dispatchArm, updateArm, hm]
  | out => simp [dispatchArm, outArm, hm]
  | nop => simp [dispatchArm, inertArm, hm]

/-- SKIP mode is left by the LOOP byte that brings the level to 0 (43_loop.md R77). -/
theorem dispatchArm_leaves_skip {s : State} (hm : s.skipMode = .skip) (op : Opcode) (sign : Sign) :
    (dispatchArm s .skip op sign).skipMode = .run ↔
      op = .loop ∧ (dispatchArm s .skip op sign).skipLevel = 0 := by
  cases op <;> simp [dispatchArm, scanLoopArm_skipMode, inertArm, hm]

/-- From RUN mode only a `]` that enters SKIP mode turns the direction (10_state.md R16). -/
theorem dispatchArm_run_turns {s : State} (hd : s.scanDirection = .fwd) {op : Opcode} {sign : Sign}
    (h : (dispatchArm s .run op sign).scanDirection ≠ s.scanDirection) :
    op = .loop ∧ sign = .zero ∧ s.cell ≠ 0 := by
  cases op with
  | loop =>
    cases sign with
    | zero => exact ⟨rfl, rfl, fun hz => h (by simp [dispatchArm, closeArm_scanDirection, hz])⟩
    | one => exact absurd (by simp [dispatchArm, openArm_scanDirection, hd]) h
  | move => exact absurd rfl h
  | update => exact absurd rfl h
  | out => exact absurd rfl h
  | nop => exact absurd rfl h

/-- In SKIP mode only the LOOP byte that ends the skip turns the direction, to FWD (10_state.md R16). -/
theorem dispatchArm_skip_turns {s : State} {op : Opcode} {sign : Sign}
    (h : (dispatchArm s .skip op sign).scanDirection ≠ s.scanDirection) :
    op = .loop ∧ (dispatchArm s .skip op sign).skipLevel = 0 ∧
      (dispatchArm s .skip op sign).scanDirection = .fwd := by
  cases op with
  | loop =>
    have hl : s.nextLevel sign = 0 := by
      by_contra hl
      exact h (by simp [dispatchArm, scanLoopArm_scanDirection, hl])
    simp [dispatchArm, scanLoopArm_scanDirection, hl]
  | move => exact absurd rfl h
  | update => exact absurd rfl h
  | out => exact absurd rfl h
  | nop => exact absurd rfl h

/-! ### The step -/

/-- What a step without reset answers, by the Decoder's outputs for the byte at `pc`. -/
theorem next_eq_commit {s t : State} (hr : s.rstNow = false) (h : step s = .next t) :
    t = s.takeRst.commit (dispatchArm s.takeRst s.skipMode
      (decodeOp (s.readCode s.pc)).1 (decodeOp (s.readCode s.pc)).2) :=
  (Host.Outcome.next.inj ((step_eq_commit hr).symm.trans h)).symm

/-- Settles O28: the only arm that raises `outputValid` is OUT's in RUN mode, and the commit keeps the arm's value. -/
theorem outputValidExactlyAfterExecutedOut : Obligations.OutputValidExactlyAfterExecutedOut := by
  intro s t hr h
  rw [next_eq_commit hr h]
  exact ⟨dispatchArm_outputValid .., rfl⟩

/-- Settles O29: the only arm that loads `outputByte` is OUT's in RUN mode. -/
theorem outputByteLoadedByOutOnly : Obligations.OutputByteLoadedByOutOnly := by
  intro s t hr h
  rw [next_eq_commit hr h]
  have hout := dispatchArm_outputByte s.takeRst s.skipMode (decodeOp (s.readCode s.pc)).1
    (decodeOp (s.readCode s.pc)).2
  exact ⟨fun hc => hout.trans (if_pos hc), fun hc => hout.trans (if_neg hc), rfl⟩

/-- Settles O31: the entries and exits of SKIP mode are those of the arms, which the commit keeps. -/
theorem modeChangesOnlyAtBrackets : Obligations.ModeChangesOnlyAtBrackets := by
  refine ⟨rfl, rfl, fun s t hr h => ?_⟩
  rw [next_eq_commit hr h]
  constructor <;> intro hm <;> rw [hm]
  · exact dispatchArm_enters_skip (s := s.takeRst) hm ..
  · exact dispatchArm_leaves_skip (s := s.takeRst) hm ..

/-! ### Addresses as words of their width -/

theorem ofNat_stepAddr_zero (bits a : Nat) :
    BitVec.ofNat bits (stepAddr bits .zero a) = BitVec.ofNat bits a + 1 := by
  apply BitVec.eq_of_toNat_eq
  simp [BitVec.toNat_add]

theorem ofNat_stepAddr_one (bits a : Nat) :
    BitVec.ofNat bits (stepAddr bits .one a) = BitVec.ofNat bits a - 1 := by
  have hback : a + (2 ^ bits - 1) + 1 = a + 2 ^ bits := by
    have := Nat.two_pow_pos bits
    omega
  rw [eq_sub_iff_add_eq, ← ofNat_stepAddr_zero]
  apply BitVec.eq_of_toNat_eq
  simp [hback]

/-- Settles O30: MOVE's arm steps `ptr` as a word of T bits, and every other arm holds it. -/
theorem ptrMovedByMoveInRunOnly : Obligations.PtrMovedByMoveInRunOnly := by
  intro s t hr h
  have hptr : t.ptr = if s.skipMode = .run ∧ (decodeOp (s.readCode s.pc)).1 = .move then
      stepAddr s.params.tapeAddrBits (decodeOp (s.readCode s.pc)).2 s.ptr else s.ptr := by
    rw [next_eq_commit hr h]
    exact dispatchArm_ptr ..
  refine ⟨fun hm hd => ?_, fun hm hd => ?_, fun hd => ?_, fun hm => ?_⟩
  · rw [hptr, if_pos ⟨hm, congrArg Prod.fst hd⟩, hd]
    exact ⟨stepAddr_lt .., ofNat_stepAddr_zero ..⟩
  · rw [hptr, if_pos ⟨hm, congrArg Prod.fst hd⟩, hd]
    exact ⟨stepAddr_lt .., ofNat_stepAddr_one ..⟩
  · rw [hptr, if_neg fun hc => hd hc.2]
  · rw [hptr, if_neg fun hc => absurd (hm.symm.trans hc.1) (by decide)]

/-- Settles O33: the commit steps `pc` from the tick's start, by the sign of the direction that it commits. -/
theorem pcMovesByOneInCommittedDirection : Obligations.PcMovesByOneInCommittedDirection := by
  intro i s t h
  obtain ⟨a, -, ha⟩ := exec_next i s
  obtain rfl : s.commit a = t := Host.Outcome.next.inj (ha.symm.trans h)
  have hpc : (s.commit a).pc = stepAddr s.params.codeAddrBits a.scanDirection.sign s.pc := rfl
  rw [hpc]
  refine ⟨stepAddr_lt .., fun hd => ?_, fun hd => ?_⟩
  · rw [show a.scanDirection = .fwd from hd]
    exact ofNat_stepAddr_zero ..
  · rw [show a.scanDirection = .bwd from hd]
    exact ofNat_stepAddr_one ..

/-- A `]` is the one instruction of the opcode LOOP with sign 0 (30_encoding.md R47). -/
theorem eq_loopClose_of_opcode_sign {i : Instr} (ho : i.opcode = .loop) (hs : i.sign = .zero) :
    i = .loopClose := by
  cases i with
  | loopClose => rfl
  | loopOpen => exact nomatch hs
  | _ => exact nomatch ho

/-- Settles O34: under R25 a tick of RUN mode starts forward, so it turns only at a `]` on a non-zero cell; a tick of SKIP
mode turns only at its end. -/
theorem directionTurnsAtSkipEnds : Obligations.DirectionTurnsAtSkipEnds := by
  rintro i s t ⟨hrun, -⟩ h hturn
  obtain rfl := Host.Outcome.next.inj ((exec_eq_commit i s).symm.trans h)
  cases hm : s.skipMode with
  | run =>
    rw [hm] at hturn
    obtain ⟨ho, hs, hz⟩ := dispatchArm_run_turns (hrun hm) hturn
    have hskip := (dispatchArm_enters_skip hm i.opcode i.sign).2 (.inr ⟨by rw [ho, hs], hz⟩)
    exact .inl ⟨eq_loopClose_of_opcode_sign ho hs, rfl, hz, hrun hm, hskip⟩
  | skip =>
    rw [hm] at hturn
    obtain ⟨ho, hl, hfwd⟩ := dispatchArm_skip_turns hturn
    have hbwd : s.scanDirection = .bwd := by
      cases hd : s.scanDirection with
      | fwd => exact absurd (hfwd.trans hd.symm) hturn
      | bwd => rfl
    exact .inr ⟨ho, rfl, hbwd, (dispatchArm_leaves_skip hm ..).2 ⟨ho, hl⟩, hl⟩

end Sys2Proof.Machine
end

section
/-! The invariants of the machine (10_state.md R25): every arm keeps them, so the commit, the step and every run do. -/

namespace Sys2Proof.Machine

/-! ### What an arm keeps -/

theorem ArmResult.params_eq {s a : State} (ha : ArmResult s a) : a.params = s.params := by
  cases ha <;> rfl

theorem ArmResult.store_eq {s a : State} (ha : ArmResult s a) : a.store = s.store := by
  cases ha <;> rfl

/-- R25: the arms that enter SKIP mode load -1 or +1, the arm that counts stays in it with a level other than 0, and the arm
that leaves it turns forward. -/
theorem ArmResult.modeInv {s a : State} (ha : ArmResult s a) (hs : s.ModeInv) : a.ModeInv := by
  cases ha with
  | inert => exact hs
  | move => exact hs
  | update => exact hs
  | output => exact hs
  | enterForward => exact ⟨nofun, fun _ => by simp⟩
  | enterBackward => exact ⟨nofun, fun _ => by simp⟩
  | count _ hm hl => exact ⟨fun hr => absurd (hm.symm.trans hr) (by decide), fun _ => hl⟩
  | endSkip => exact ⟨fun _ => rfl, nofun⟩

theorem ArmResult.ptr_lt {s a : State} (ha : ArmResult s a) (hs : s.ptr < s.params.tapeSize) :
    a.ptr < s.params.tapeSize := by
  cases ha with
  | move => exact stepAddr_lt ..
  | _ => exact hs

/-- The level after an arm is that before it, -1, +1 or a wrapped one, each of them in W bits. -/
theorem ArmResult.skipLevel_bounds {s a : State} (ha : ArmResult s a) (hw : 2 ≤ s.params.skipLevelBits)
    (hs : -(2 : Int) ^ (s.params.skipLevelBits - 1) ≤ s.skipLevel ∧
      s.skipLevel < (2 : Int) ^ (s.params.skipLevelBits - 1)) :
    -(2 : Int) ^ (s.params.skipLevelBits - 1) ≤ a.skipLevel ∧
      a.skipLevel < (2 : Int) ^ (s.params.skipLevelBits - 1) := by
  have hone : (1 : Int) < 2 ^ (s.params.skipLevelBits - 1) := one_lt_pow₀ (by decide) (by omega)
  cases ha with
  | inert => exact hs
  | move => exact hs
  | update => exact hs
  | output => exact hs
  | enterForward => simp only [State.enterSkip_skipLevel]; omega
  | enterBackward => simp only [State.enterSkip_skipLevel]; omega
  | count => exact wrapLevel_bounds (by omega) _
  | endSkip => exact wrapLevel_bounds (by omega) _

theorem ArmResult.tape_wf {s a : State} (ha : ArmResult s a) (hs : s.tape.wf) : a.tape.wf := by
  cases ha with
  | update => exact State.writeCell_tape_wf (s := s.holdDefaults) hs _
  | _ => exact hs

theorem ArmResult.tape_within {s a : State} (ha : ArmResult s a)
    (hs : s.tape.Within s.params.tapeSize) : a.tape.Within s.params.tapeSize := by
  cases ha with
  | update => exact State.writeCell_tape_within (s := s.holdDefaults) hs _
  | _ => exact hs

/-! ### The commit and the registers of a reset -/

/-- A tick that commits an arm keeps the invariant; `pc` lies in C bits whatever it was. -/
theorem ArmResult.commit_inv {s a : State} (ha : ArmResult s a) (hs : s.Inv) : (s.commit a).Inv := by
  obtain ⟨hp, hmode, ⟨-, hptr, hlevel⟩, hstore, hstoreIn, htape, htapeIn⟩ := hs
  have hpc : s.nextPc a < s.params.codeSize := stepAddr_lt ..
  simp only [State.Inv, State.InWidths, State.MemoriesWf, State.commit_params, State.commit_pc,
    State.commit_ptr, State.commit_skipLevel, State.commit_store, State.commit_tape, ha.params_eq, ha.store_eq]
  exact ⟨hp, ha.modeInv hmode, ⟨hpc, ha.ptr_lt hptr, ha.skipLevel_bounds hp.2.2 hlevel⟩,
    hstore, hstoreIn, ha.tape_wf htape, ha.tape_within htapeIn⟩

/-- The registers of 70_reset_and_hazards.md R98 meet the invariant over every canonical pair of memories. -/
theorem initial_inv {p : Params} {store tape : Memory} (hp : p.Wf) (hstore : store.wf)
    (hstoreIn : store.Within p.codeSize) (htape : tape.wf) (htapeIn : tape.Within p.tapeSize) :
    (State.initial p store tape).Inv := by
  refine ⟨hp, ⟨fun _ => rfl, nofun⟩, ⟨State.codeSize_pos p, State.tapeSize_pos p, ?_, ?_⟩,
    hstore, hstoreIn, htape, htapeIn⟩
  · exact neg_nonpos.2 (by positivity)
  · exact pow_pos (by decide) _

theorem externalReset_inv {s : State} (hs : s.Inv) : s.externalReset.Inv := by
  obtain ⟨hp, -, -, hstore, hstoreIn, htape, htapeIn⟩ := hs
  exact initial_inv hp hstore hstoreIn htape htapeIn

/-! ### The step and the run -/

/-- Settles O40: a step commits an arm or the external reset, and both keep the invariant. -/
theorem stepKeepsInvariant : Obligations.StepKeepsInvariant := by
  intro s t hs h
  obtain ⟨-, rfl⟩ | ⟨-, a, ha, rfl⟩ := step_cases h
  · exact externalReset_inv (s := s.takeRst) hs
  · exact ha.commit_inv hs

/-- Settles O43: each arm keeps R25 by itself, and a reset tick leaves RUN mode with FWD. -/
theorem stepKeepsModeInvariant : Obligations.StepKeepsModeInvariant := by
  intro s t hs h
  obtain ⟨-, rfl⟩ | ⟨-, a, ha, rfl⟩ := step_cases h
  · exact ⟨fun _ => rfl, nofun⟩
  · exact ha.modeInv hs

/-- Settles O41: the reset state is the registers of R98 over two empty memories. -/
theorem resetHasInvariant : Obligations.ResetHasInvariant :=
  initial_inv (by decide) Memory.wf_nil nofun Memory.wf_nil nofun

/-- Settles O42: a construction is the registers of R98 over two lists of bytes that fit. -/
theorem constructionHasInvariant : Obligations.ConstructionHasInvariant := by
  intro p image padding tapeInit s h
  obtain ⟨hp, hcode, htape, -, rfl⟩ := State.construct_next h
  have himage : (image ++ padding).length ≤ p.codeSize := by rwa [List.length_append]
  exact initial_inv hp (Memory.wf_ofBytes ..) (Memory.within_ofBytes himage)
    (Memory.wf_ofBytes ..) (Memory.within_ofBytes htape)

theorem Reachable.inv {s : State} (h : Reachable s) : s.Inv := by
  induction h with
  | constructed rst hc =>
    have hinit := constructionHasInvariant _ _ _ _ _ hc
    exact hinit
  | step _ ht ih => exact stepKeepsInvariant _ _ ih ht

/-- Settles O44: the invariant holds at every construction and every step keeps it; R25 is a part of it. -/
theorem reachableStatesSatisfyModeInvariant : Obligations.ReachableStatesSatisfyModeInvariant := by
  intro s h
  obtain ⟨-, hmode, -⟩ := h.inv
  exact ⟨hmode, h.inv⟩

end Sys2Proof.Machine
end

section
/-! The level of a state in RUN mode influences no output (10_state.md R18): two states that differ in it alone stay so
until SKIP mode is entered, which loads it, or a reset tick, which clears it. -/

namespace Sys2Proof.Machine

/-- An arm of RUN mode over another level: SKIP mode entered at the same level, or RUN mode with the level still apart. -/
theorem dispatchArm_run_setLevel {s : State} (hm : s.skipMode = .run) (level : Int) (op : Opcode)
    (sign : Sign) :
    dispatchArm (s.setLevel level) .run op sign = dispatchArm s .run op sign ∨
      (dispatchArm s .run op sign).skipMode = .run ∧
        dispatchArm (s.setLevel level) .run op sign = (dispatchArm s .run op sign).setLevel level := by
  cases op with
  | loop =>
    have hzero : (s.setLevel level).isZero = s.isZero := rfl
    cases sign with
    | zero =>
      simp only [dispatchArm, closeArm, hzero]
      split
      · exact .inr ⟨hm, rfl⟩
      · exact .inl rfl
    | one =>
      simp only [dispatchArm, openArm, hzero]
      split
      · exact .inl rfl
      · exact .inr ⟨hm, rfl⟩
  | move => exact .inr ⟨hm, rfl⟩
  | update => exact .inr ⟨hm, rfl⟩
  | out => exact .inr ⟨hm, rfl⟩
  | nop => exact .inr ⟨hm, rfl⟩

/-- A step from RUN mode over another level: the same next state, or RUN mode with the level still apart. -/
theorem step_run_setLevel {s t : State} (hm : s.skipMode = .run) (level : Int) (h : step s = .next t) :
    step (s.setLevel level) = .next t ∨
      t.skipMode = .run ∧ step (s.setLevel level) = .next (t.setLevel level) := by
  cases hr : s.rstNow with
  | true => exact .inl ((step_of_rst (s := s.setLevel level) hr).trans ((step_of_rst hr).symm.trans h))
  | false =>
    have hstep := step_eq_commit (s := s.setLevel level) hr
    obtain rfl := next_eq_commit hr h
    rw [State.setLevel_skipMode, hm] at hstep
    rw [hm, hstep]
    obtain heq | ⟨hrun, heq⟩ := dispatchArm_run_setLevel (s := s.takeRst) hm level
      (decodeOp s.fetchByte).1 (decodeOp s.fetchByte).2
    · exact .inl (congrArg (fun a => Host.Outcome.next (s.takeRst.commit a)) heq)
    · exact .inr ⟨hrun, congrArg (fun a => Host.Outcome.next ((s.takeRst.setLevel level).commit a)) heq⟩

theorem trace_succ {n : Nat} {s t : State} (h : step s = .next t) :
    Trace (n + 1) s = s.observe :: Trace n t := by
  simp only [Trace, h]

/-- Settles O50: by induction on the number of ticks, over the two outcomes of a step from RUN mode. -/
theorem skipLevelIsUnobservableInRunMode : Obligations.SkipLevelIsUnobservableInRunMode := by
  intro s level n hm
  change Trace n (s.setLevel level) = Trace n s
  induction n generalizing s with
  | zero => rfl
  | succ n ih =>
    obtain ⟨t, ht⟩ := step_next s
    rw [trace_succ ht]
    obtain hsame | ⟨hrun, happart⟩ := step_run_setLevel hm level ht
    · exact trace_succ hsame
    · rw [trace_succ happart, ih t hrun]
      rfl

end Sys2Proof.Machine
end

section
/-! What a tick does to the memories (20_memory.md): construction fills them, only UPDATE in RUN mode writes the tape, at the
cell at `ptr`, and nothing writes the store. -/

namespace Sys2Proof.Machine

/-! ### Construction -/

theorem Memory.read_ofBytes_zero (bs : List Byte) (a : Nat) :
    Memory.read (Memory.ofBytes 0 bs) a = bs.getD a 0x00 := by
  by_cases ha : a < bs.length
  · rw [List.getD_eq_getElem _ _ ha]
    simpa using Memory.read_ofBytes 0 bs ha
  · rw [List.getD_eq_default _ _ (not_lt.1 ha)]
    exact Memory.read_ofBytes_above (by omega)

/-- Settles O8: construction places both lists at address 0, and an address inside a memory does not wrap. -/
theorem constructionFillsBothMemories : Obligations.ConstructionFillsBothMemories := by
  intro p image padding tapeInit s h
  obtain ⟨-, -, -, -, rfl⟩ := State.construct_next h
  have hread (bs : List Byte) {a size : Nat} (ha : a < size) :
      Memory.read (Memory.ofBytes 0 bs) (a % size) = bs.getD a 0x00 := by
    rw [Nat.mod_eq_of_lt ha, Memory.read_ofBytes_zero]
  exact ⟨fun a ha => hread _ ha, fun a ha => hread _ ha⟩

/-! ### The tape under an arm -/

@[simp] theorem openArm_tape (s : State) : (openArm s).tape = s.tape := by
  unfold openArm; split <;> rfl
@[simp] theorem closeArm_tape (s : State) : (closeArm s).tape = s.tape := by
  unfold closeArm; split <;> rfl
@[simp] theorem scanLoopArm_tape (sign : Sign) (s : State) : (scanLoopArm sign s).tape = s.tape := by
  unfold scanLoopArm; split <;> rfl

theorem dispatchArm_tape (s : State) (m : Mode) (op : Opcode) (sign : Sign) :
    (dispatchArm s m op sign).tape =
      if m = .run ∧ op = .update then
        s.tape.write (s.ptr % s.params.tapeSize) (s.cell + cellDelta sign)
      else s.tape := by
  unfold dispatchArm
  split <;> simp [moveArm, updateArm, outArm, inertArm]

/-- The arm that the dispatch names in a state's own mode is one of the case list. -/
theorem dispatchArm_result (s : State) (op : Opcode) (sign : Sign) :
    ArmResult s (dispatchArm s s.skipMode op sign) := by
  cases hm : s.skipMode with
  | run =>
    cases op with
    | loop =>
      cases sign with
      | zero => exact closeArm_result hm
      | one => exact openArm_result hm
    | move => exact .move sign hm
    | update => exact .update sign hm
    | out => exact .output hm
    | nop => exact .inert
  | skip =>
    cases op with
    | loop => exact scanLoopArm_result sign hm
    | move => exact .inert
    | update => exact .inert
    | out => exact .inert
    | nop => exact .inert

/-- Settles O32: a reset tick and every arm but UPDATE's in RUN mode keep the tape, and UPDATE's writes the cell at `ptr`. -/
theorem tapeWrittenOnlyByUpdateAtPtr : Obligations.TapeWrittenOnlyByUpdateAtPtr := by
  intro s t a h hne
  cases hr : s.rstNow with
  | true =>
    rw [step_of_rst hr] at h
    cases h
    exact absurd rfl hne
  | false =>
    have htape := dispatchArm_tape s.takeRst s.skipMode (decodeOp (s.readCode s.pc)).1
      (decodeOp (s.readCode s.pc)).2
    have hparams := (dispatchArm_result s.takeRst (decodeOp (s.readCode s.pc)).1
      (decodeOp (s.readCode s.pc)).2).params_eq
    rw [next_eq_commit hr h, State.commit_readTape] at hne
    have hupdate : s.skipMode = .run ∧ (decodeOp (s.readCode s.pc)).1 = .update := by
      by_contra hc
      rw [if_neg hc] at htape
      exact hne (State.readTape_congr hparams htape a)
    obtain ⟨hrun, hop⟩ := hupdate
    refine ⟨rfl, hrun, hop, ?_⟩
    by_contra ha
    rw [hrun, hop] at hne
    exact hne (State.readTape_writeCell_other s.takeRst.holdDefaults _ ha)

/-! ### The store and the parameters in a run -/

theorem step_keeps_params_store {s t : State} (h : step s = .next t) :
    t.params = s.params ∧ t.store = s.store := by
  obtain ⟨-, rfl⟩ | ⟨-, a, ha, rfl⟩ := step_cases h
  · exact ⟨rfl, rfl⟩
  · exact ⟨ha.params_eq, ha.store_eq⟩

theorem ticks_keeps_params_store {n : Nat} {s t : State} (h : Ticks n s t) :
    t.params = s.params ∧ t.store = s.store := by
  induction n generalizing s with
  | zero => exact h ▸ ⟨rfl, rfl⟩
  | succ n ih =>
    obtain ⟨u, hu, h⟩ := h
    obtain ⟨hparams, hstore⟩ := step_keeps_params_store hu
    exact (ih h).imp (·.trans hparams) (·.trans hstore)

theorem Reachable.ticks {n : Nat} {s t : State} (hs : Reachable s) (h : Ticks n s t) : Reachable t := by
  induction n generalizing s with
  | zero => exact h ▸ hs
  | succ n ih =>
    obtain ⟨u, hu, h⟩ := h
    exact ih (hs.step hu) h

/-- Settles O51: no tick writes the store, every reachable `pc` lies in C bits, and there the construction byte stands. -/
theorem fetchReturnsTheConstructionByte : Obligations.FetchReturnsTheConstructionByte := by
  intro p image padding tapeInit s t rst n hc h
  obtain ⟨hparams, hstore⟩ := ticks_keeps_params_store h
  obtain ⟨-, -, ⟨hpc, -⟩, -⟩ := ((Reachable.constructed rst hc).ticks h).inv
  have hp : s.params = p := by
    obtain ⟨-, -, -, -, rfl⟩ := State.construct_next hc
    rfl
  obtain ⟨hcode, -⟩ := constructionFillsBothMemories p image padding tapeInit s hc
  rw [hparams, hp] at hpc
  refine ⟨hstore, ?_⟩
  calc t.fetchByte = s.readCode t.pc := State.readCode_congr hparams hstore _
    _ = (image ++ padding).getD t.pc 0x00 := hcode _ hpc

/-! ### A write is seen by the next tick -/

theorem updateArm_readTape_ptr {s : State} (h : s.tape.wf) (sign : Sign) :
    (updateArm sign s).readTape s.ptr = s.cell + cellDelta sign :=
  State.readTape_writeCell_self (s := s.holdDefaults) h _ rfl

/-- After an executed UPDATE the cell at `ptr` reads as the old one plus or minus 1 (20_memory.md R38). -/
theorem commit_updateArm_cell {s : State} (h : s.tape.wf) (sign : Sign) :
    (s.commit (updateArm sign s)).cell = s.cell + cellDelta sign :=
  updateArm_readTape_ptr h sign

/-- Settles O38: both instructions of the second tick read the cell that the first one wrote. -/
theorem writeIsSeenByTheNextTick : Obligations.WriteIsSeenByTheNextTick := by
  rintro s - ⟨-, -, htape, -⟩ hrun
  have hcell := commit_updateArm_cell htape .zero
  have htape' : (s.commit (updateArm .zero s)).tape.wf :=
    State.writeCell_tape_wf (s := s.holdDefaults) htape _
  have hcell' := commit_updateArm_cell htape' .zero
  rw [hcell, add_assoc] at hcell'
  exact ⟨_, tick_run hrun, ⟨_, tick_run hrun, hcell⟩, _, tick_run hrun, hcell'⟩

end Sys2Proof.Machine
end

section
/-! The circle of tape addresses (20_memory.md R31): `2^T` steps in one direction return to the start. -/

namespace Sys2Proof.Machine

theorem iterate_add_mod {m a : Nat} (ha : a < m) (d n : Nat) :
    (fun x => (x + d) % m)^[n] a = (a + n * d) % m := by
  induction n with
  | zero => simp [Nat.mod_eq_of_lt ha]
  | succ n ih => rw [Function.iterate_succ_apply', ih, Nat.mod_add_mod, Nat.succ_mul, Nat.add_assoc]

theorem stepAddr_iterate_two_pow {bits a : Nat} (ha : a < 2 ^ bits) (sign : Sign) :
    (stepAddr bits sign)^[2 ^ bits] a = a := by
  have hcircle (d : Nat) : (fun x => (x + d) % 2 ^ bits)^[2 ^ bits] a = a := by
    rw [iterate_add_mod ha, Nat.add_mul_mod_self_left, Nat.mod_eq_of_lt ha]
  cases sign with
  | zero => rw [funext (stepAddr_zero bits)]; exact hcircle _
  | one => rw [funext (stepAddr_one bits)]; exact hcircle _

theorem exec_move_run {i : Instr} {s : State} (ho : i.opcode = .move) (hm : s.skipMode = .run) :
    exec i s = .next (s.commit (moveArm i.sign s)) := by
  rw [exec_eq_commit, hm, ho]
  rfl

theorem execTimes_move_run {i : Instr} (ho : i.opcode = .move) (n : Nat) {s : State}
    (hm : s.skipMode = .run) :
    ∃ t, ExecTimes i n s t ∧ t.ptr = (stepAddr s.params.tapeAddrBits i.sign)^[n] s.ptr := by
  induction n generalizing s with
  | zero => exact ⟨s, rfl, rfl⟩
  | succ n ih =>
    obtain ⟨t, ht, hptr⟩ := ih (s := s.commit (moveArm i.sign s)) hm
    exact ⟨t, ⟨_, exec_move_run ho hm, ht⟩, hptr⟩

/-- Settles O36: every arm keeps `ptr` in T bits, and MOVE's executed `2^T` times goes once round the circle. -/
theorem moveTapeSizeTimesReturnsPtr : Obligations.MoveTapeSizeTimesReturnsPtr := by
  intro i s hptr
  constructor
  · obtain ⟨a, ha, hexec⟩ := exec_next i s
    exact ⟨_, hexec, ha.ptr_lt hptr⟩
  · intro ho _ hrun
    obtain ⟨t, ht, hiter⟩ := execTimes_move_run ho (2 ^ s.params.tapeAddrBits) hrun
    exact ⟨t, ht, hiter.trans (stepAddr_iterate_two_pow hptr _)⟩

end Sys2Proof.Machine
end

section
/-! The port-level realisation (20_memory.md R43 to R45): every tick loads the port registers and none reads them, and the
Control Unit fed from them makes the tick function's run. -/

namespace Sys2Proof.Machine

/-! ### The port registers under the tick function -/

theorem ArmResult.commit_portsLoaded {s a : State} (ha : ArmResult s a) : (s.commit a).PortsLoaded :=
  ⟨(State.readCode_congr ha.params_eq ha.store_eq _).symm, rfl⟩

/-- Settles O46: the commit loads both registers, and no arm changes the store that it loads from. -/
theorem everyTickLoadsThePortRegisters : Obligations.EveryTickLoadsThePortRegisters := by
  intro s t hr h
  rw [next_eq_commit hr h]
  exact (dispatchArm_result s.takeRst _ _).commit_portsLoaded

/-- Other values in the two port registers. -/
def State.setPorts (s : State) (code tape : Byte) : State := { s with codeQ := code, tapeQ := tape }

/-- An arm neither reads nor writes the port registers. -/
theorem dispatchArm_setPorts (s : State) (code tape : Byte) (m : Mode) (op : Opcode) (sign : Sign) :
    dispatchArm (s.setPorts code tape) m op sign = (dispatchArm s m op sign).setPorts code tape := by
  cases m with
  | run =>
    cases op with
    | loop =>
      have hzero : (s.setPorts code tape).isZero = s.isZero := rfl
      cases sign with
      | zero => simp only [dispatchArm, closeArm, hzero]; split <;> rfl
      | one => simp only [dispatchArm, openArm, hzero]; split <;> rfl
    | move => rfl
    | update => rfl
    | out => rfl
    | nop => rfl
  | skip =>
    cases op with
    | loop =>
      have hlevel : (s.setPorts code tape).nextLevel sign = s.nextLevel sign := rfl
      simp only [dispatchArm, scanLoopArm, hlevel]
      split <;> rfl
    | move => rfl
    | update => rfl
    | out => rfl
    | nop => rfl

theorem commit_setPorts (s a : State) (code tape : Byte) :
    s.commit (a.setPorts code tape) = s.commit a := rfl

/-- The commit overwrites both port registers, and so does a reset tick. -/
theorem step_setPorts (s : State) (code tape : Byte) : step (s.setPorts code tape) = step s := by
  cases hr : s.rstNow with
  | true => exact (step_of_rst (s := s.setPorts code tape) hr).trans (step_of_rst hr).symm
  | false =>
    have hports : step (s.setPorts code tape) = .next (s.takeRst.commit
        (dispatchArm (s.takeRst.setPorts code tape) s.skipMode (decodeOp s.fetchByte).1
          (decodeOp s.fetchByte).2)) := step_eq_commit (s := s.setPorts code tape) hr
    rw [hports, dispatchArm_setPorts, commit_setPorts, step_eq_commit hr]

/-- Settles O49: the first step is the same, and so is everything after it; the outputs of tick 0 are other registers. -/
theorem portRegistersAreUnobservable : Obligations.PortRegistersAreUnobservable := by
  intro s code tape n
  have hstep := step_setPorts s code tape
  constructor
  · cases n with
    | zero => rfl
    | succ n =>
      obtain ⟨t, ht⟩ := step_next s
      rw [trace_succ ht]
      exact trace_succ (hstep.trans ht)
  · intro t
    change Ticks (n + 1) (s.setPorts code tape) t ↔ _
    rw [ticks_succ, ticks_succ, hstep]

/-! ### The Control Unit of the port level against the dispatch -/

/-- A tick of the Control Unit and the two memories over given Decoder outputs and a given cell. -/
def State.controlTick (s : State) (op : Opcode) (sign : Sign) (cell : Byte) : State :=
  (s.controlRegs op sign cell).clockEdge (s.portSignals (s.controlRegs op sign cell) op sign cell)

theorem portTick_eq_controlTick (s : State) :
    s.portTick = s.controlTick (decodeOp s.codeQ).1 (decodeOp s.codeQ).2 s.tapeQ := rfl

/-- NOP uses no cell (20_memory.md R45): it loads no register from it and does not enable the write. -/
theorem controlTick_nop (s : State) (sign : Sign) (cell cell' : Byte) :
    s.controlTick .nop sign cell = s.controlTick .nop sign cell' := by
  have hregs : s.controlRegs .nop sign cell = s.controlRegs .nop sign cell' := by
    cases hm : s.skipMode <;> simp only [State.controlRegs, hm]
  simp [State.controlTick, hregs, State.clockEdge, State.portSignals, State.controlPc]

theorem controlPc_eq_nextPc (s s' : State) : s.controlPc s' = s.nextPc s' := by
  unfold State.controlPc State.nextPc
  cases s'.scanDirection <;> rfl

theorem testBracket_one (s : State) : s.holdDefaults.testBracket .one s.cell = openArm s := by
  simp only [State.testBracket, openArm, isZero_iff, true_and, reduceCtorEq, false_and, if_false]
  rfl

theorem testBracket_zero (s : State) : s.holdDefaults.testBracket .zero s.cell = closeArm s := by
  simp only [State.testBracket, closeArm, isZero_iff, true_and, reduceCtorEq, false_and, if_false, ite_not]
  rfl

theorem countBracket_eq_scanLoopArm (s : State) (sign : Sign) :
    s.holdDefaults.countBracket sign = scanLoopArm sign s := rfl

/-- The Control Unit makes the dispatched arm, except that UPDATE's write is left to the write port. -/
theorem controlRegs_eq_dispatchArm {s : State} {op : Opcode} (sign : Sign)
    (h : ¬ (s.skipMode = .run ∧ op = .update)) :
    s.controlRegs op sign s.cell = dispatchArm s s.skipMode op sign := by
  rcases s with ⟨_, _, _, _, _, _, mode⟩
  cases mode with
  | run =>
    cases op with
    | loop =>
      cases sign with
      | zero => exact testBracket_zero _
      | one => exact testBracket_one _
    | update => exact absurd ⟨rfl, rfl⟩ h
    | move => rfl
    | out => rfl
    | nop => rfl
  | skip =>
    cases op with
    | loop => exact countBracket_eq_scanLoopArm _ sign
    | move => rfl
    | update => rfl
    | out => rfl
    | nop => rfl

theorem controlRegs_update {s : State} (hm : s.skipMode = .run) (sign : Sign) (cell : Byte) :
    s.controlRegs .update sign cell = s.holdDefaults := by
  rcases s with ⟨_, _, _, _, _, _, mode⟩
  obtain rfl : mode = .run := hm
  rfl

/-- Without a write the clock edge is the commit of the arm that drives the two read addresses. -/
theorem clockEdge_of_no_write {s a : State} {g : PortSignals} (ha : ArmResult s a)
    (hwe : g.tapeWe = false) (hpc : g.codeAddr = s.nextPc a) (hptr : g.tapeRaddr = a.ptr) :
    a.clockEdge g = s.commit a := by
  have hcode := State.readCode_congr ha.params_eq ha.store_eq (s.nextPc a)
  simp [State.clockEdge, hwe, hpc, hptr, hcode]
  rfl

/-- A write to the address that the read port reads: write-first, the byte written is loaded (20_memory.md R44). -/
theorem clockEdge_of_write_first {s : State} {g : PortSignals} (hwe : g.tapeWe = true)
    (haddr : g.tapeWaddr = g.tapeRaddr) :
    s.clockEdge g =
      { s with
        pc := g.codeAddr
        tape := s.tape.write (g.tapeWaddr % s.params.tapeSize) g.tapeWdata
        codeQ := s.readCode g.codeAddr
        tapeQ := g.tapeWdata } := by
  simp [State.clockEdge, hwe, haddr]

/-- UPDATE does not move `ptr`, so the read port loads the byte that the write port takes. -/
theorem controlTick_update {s : State} (htape : s.tape.wf) (hm : s.skipMode = .run) (sign : Sign) :
    s.controlTick .update sign s.cell = s.commit (updateArm sign s) := by
  have hwe : (s.portSignals s.holdDefaults .update sign s.cell).tapeWe = true := by
    simp [State.portSignals, hm]
  have hpc : s.controlPc s.holdDefaults = s.nextPc (updateArm sign s) := controlPc_eq_nextPc ..
  have hread := updateArm_readTape_ptr htape sign
  rw [State.controlTick, controlRegs_update hm, clockEdge_of_write_first hwe rfl]
  exact State.ext rfl rfl rfl hpc rfl rfl rfl rfl rfl rfl (congrArg s.readCode hpc) hread.symm rfl

/-- Over the Decoder outputs and the cell of the tick function, the port level makes the tick function's next state. -/
theorem controlTick_eq_commit {s : State} (htape : s.tape.wf) (op : Opcode) (sign : Sign) :
    s.controlTick op sign s.cell = s.commit (dispatchArm s s.skipMode op sign) := by
  by_cases h : s.skipMode = .run ∧ op = .update
  · obtain ⟨hm, rfl⟩ := h
    rw [controlTick_update htape hm, hm]
    rfl
  · rw [State.controlTick, controlRegs_eq_dispatchArm sign h]
    have hwe : (s.skipMode == .run && op == .update) = false := by simpa using h
    exact clockEdge_of_no_write (dispatchArm_result s op sign) hwe (controlPc_eq_nextPc ..) rfl

/-- Settles O47: a reset tick reads no port register; in every other the ports show the tick function's Decoder outputs and
cell, or a NOP that uses no cell. -/
theorem portStepIsStep : Obligations.PortStepIsStep := by
  rintro s ⟨-, -, htape, -⟩ ⟨hdecode, hcell⟩
  cases hr : s.rstNow with
  | true => rw [step_of_rst hr, portStep, hr]
  | false =>
    have hshown : s.takeRst.portTick =
        s.takeRst.controlTick (decodeOp s.fetchByte).1 (decodeOp s.fetchByte).2 s.cell := by
      rw [portTick_eq_controlTick, State.takeRst_codeQ, hdecode]
      rcases hcell with hnop | hcell
      · rw [hnop]
        exact controlTick_nop ..
      · rw [State.takeRst_tapeQ, hcell]
    rw [step_eq_commit hr, portStep, hr]
    exact congrArg Host.Outcome.next (hshown.trans (controlTick_eq_commit (s := s.takeRst) htape _ _))

/-! ### The port level from construction -/

/-- Byte 0 of every reachable Program Store decodes to NOP, as construction demands (30_encoding.md R57). -/
theorem Reachable.warmUp {s : State} (h : Reachable s) : (decodeOp (s.readCode 0)).1 = .nop := by
  induction h with
  | constructed rst hc =>
    obtain ⟨-, -, -, hw, rfl⟩ := State.construct_next hc
    obtain ⟨hzero, -⟩ := Bool.and_eq_true_iff.1 hw
    simpa [State.readCode, State.initial] using hzero
  | step _ ht ih =>
    obtain ⟨hparams, hstore⟩ := step_keeps_params_store ht
    rwa [State.readCode_congr hparams hstore]

theorem sign_of_opcode_nop {i : Instr} (h : i.opcode = .nop) : i.sign = .zero := by
  cases i with
  | comma => rfl
  | nopPad => rfl
  | nop _ => rfl
  | _ => exact nomatch h

theorem portsAgree_of_cleared {s : State} (hpc : s.pc = 0) (hcode : s.codeQ = 0x00)
    (hw : (decodeOp (s.readCode 0)).1 = .nop) : s.PortsAgree := by
  have hfetch : s.fetchByte = s.readCode 0 := congrArg s.readCode hpc
  have hsign : (decodeOp (s.readCode 0)).2 = .zero := by
    rw [decodeOp_eq] at hw ⊢
    exact sign_of_opcode_nop hw
  rw [State.PortsAgree, hfetch, hcode]
  exact ⟨(Prod.ext hw hsign).symm, .inl hw⟩

theorem portsAgree_of_loaded {s : State} (h : s.PortsLoaded) : s.PortsAgree :=
  h.imp (congrArg decodeOp) .inr

/-- At construction and after a reset tick the ports show `0x00` and the machine fetches the warm-up NOP; after every other
tick they are loaded (20_memory.md R45, 70_reset_and_hazards.md R102). -/
theorem Reachable.portsAgree {s : State} (h : Reachable s) : s.PortsAgree := by
  have hw := h.warmUp
  cases h with
  | constructed rst hc =>
    obtain ⟨-, -, -, -, rfl⟩ := State.construct_next hc
    exact portsAgree_of_cleared rfl rfl hw
  | step _ ht =>
    obtain ⟨-, rfl⟩ | ⟨-, a, ha, rfl⟩ := step_cases ht
    · exact portsAgree_of_cleared rfl rfl hw
    · exact portsAgree_of_loaded ha.commit_portsLoaded

theorem portStep_eq_step_of_reachable {s : State} (h : Reachable s) : portStep s = step s := by
  obtain ⟨-, -, -, hmem⟩ := h.inv
  exact portStepIsStep s hmem h.portsAgree

theorem Reachable.portTicks {n : Nat} {s t : State} (hs : Reachable s) (h : Ticks n s t) : PortTicks n s t := by
  induction n generalizing s with
  | zero => exact h
  | succ n ih =>
    obtain ⟨u, hu, h⟩ := h
    exact ⟨u, (portStep_eq_step_of_reachable hs).trans hu, ih (hs.step hu) h⟩

/-- Settles O48: along a run from construction the port registers always show what the tick function reads. -/
theorem portRunIsRun : Obligations.PortRunIsRun :=
  fun _ _ _ _ _ rst hc _ _ h => (Reachable.constructed rst hc).portTicks h

end Sys2Proof.Machine
end

section
/-! The Decoder and the encoder undo each other (30_encoding.md R46 to R58): a byte either has a row of its own in the
opcode table, or takes the default row, which keeps it. -/

namespace Sys2Proof

/-! ### The opcode table: own rows and the default row -/

/-- A byte without a row of its own is read by the default row (30_encoding.md R47 "anything else"). -/
theorem decodeByte_of_not_mem_ownRowBytes {b : Byte} (h : b ∉ ownRowBytes) : decodeByte b = .nop b := by
  simp only [ownRowBytes, List.mem_cons, List.not_mem_nil, or_false, not_or] at h
  simp only [decodeByte, h, if_false]

theorem wellFormed_nop_iff (b : Byte) : (Instr.nop b).wellFormed = true ↔ b ∉ ownRowBytes := by
  simp [Instr.wellFormed]

theorem decodeByte_encodeByte {i : Instr} (h : i.wellFormed = true) : decodeByte (encodeByte i) = i := by
  cases i with
  | nop b => exact decodeByte_of_not_mem_ownRowBytes ((wellFormed_nop_iff b).1 h)
  | _ => rfl

@[simp] theorem encodeByte_decodeByte (b : Byte) : encodeByte (decodeByte b) = b := by
  by_cases hb : b ∈ ownRowBytes
  · have hrows : ∀ b ∈ ownRowBytes, encodeByte (decodeByte b) = b := by decide
    exact hrows b hb
  · rw [decodeByte_of_not_mem_ownRowBytes hb, encodeByte]

@[simp] theorem wellFormed_decodeByte (b : Byte) : (decodeByte b).wellFormed = true := by
  by_cases hb : b ∈ ownRowBytes
  · have hrows : ∀ b ∈ ownRowBytes, (decodeByte b).wellFormed = true := by decide
    exact hrows b hb
  · rw [decodeByte_of_not_mem_ownRowBytes hb]
    exact (wellFormed_nop_iff b).2 hb

/-! ### Lists of bytes -/

@[simp] theorem decode_cons (b : Byte) (rest : List Byte) : decode (b :: rest) = .ok (decodeByte b, rest) := rfl

theorem decode_ok_iff {bytes rest : List Byte} {i : Instr} :
    decode bytes = .ok (i, rest) ↔ ∃ b, bytes = b :: rest ∧ i = decodeByte b := by
  constructor
  · intro h
    cases bytes with
    | nil => nomatch h
    | cons b bs =>
      cases h
      exact ⟨b, rfl, rfl⟩
  · rintro ⟨b, rfl, rfl⟩
    rfl

/-- Settles O1: an instruction is one byte, and the Decoder reads that byte back. -/
theorem decodeOfEncodeIsTheInstruction : Obligations.DecodeOfEncodeIsTheInstruction := by
  intro i rest h
  rw [encode, List.singleton_append, decode_cons, decodeByte_encodeByte h]

/-- Settles O2: only the first byte is read, and every byte decodes to a well-formed instruction that keeps it. -/
theorem encodeOfDecodeIsTheBytes : Obligations.EncodeOfDecodeIsTheBytes := by
  constructor
  · intro bytes rest i h
    obtain ⟨b, rfl, rfl⟩ := decode_ok_iff.1 h
    exact ⟨wellFormed_decodeByte b, by rw [encode, encodeByte_decodeByte, List.singleton_append]⟩
  · intro bytes h
    obtain ⟨b, rest, rfl⟩ := List.exists_cons_of_ne_nil h
    exact ⟨decodeByte b, rest, rfl⟩

/-- Settles O3: the seven rows one by one, and the Decoder's default case for every other byte. -/
theorem exactlySevenBytesSelectAnOperation : Obligations.ExactlySevenBytesSelectAnOperation := by
  intro b
  constructor
  · have hrows : ∀ b ∈ ([0x3E, 0x3C, 0x2B, 0x2D, 0x5B, 0x5D, 0x2E] : List Byte), (decodeOp b).1 ≠ .nop := by
      decide
    exact hrows b
  · intro h
    simp only [List.mem_cons, List.not_mem_nil, or_false, not_or] at h
    simp only [decodeOp, h, if_false]

/-- Settles O4: the ten closed words, each evaluated by the opcode table. -/
theorem writtenWordsDecode : Obligations.WrittenWordsDecode := by
  unfold Obligations.WrittenWordsDecode
  decide

end Sys2Proof
end

section
/-! The Assembler's image, and which choices construction admits or refuses (30_encoding.md R53 to R57). -/

namespace Sys2Proof.Machine

/-! ### The Assembler -/

/-- The recognised characters (30_encoding.md R48, R54); every other character is a comment. -/
def isSymbol (c : Char) : Bool := ['+', '-', '<', '>', '[', ']', '.', ','].contains c

/-- The character code as a byte (30_encoding.md R48). -/
def charByte (c : Char) : Byte := BitVec.ofNat 8 c.toNat

theorem isSymbol_iff (c : Char) : isSymbol c = true ↔ c ∈ ['+', '-', '<', '>', '[', ']', '.', ','] := by
  rw [isSymbol, List.contains_iff_mem]

/-- The Assembler's table is the character code, kept for the recognised characters only. -/
theorem symbolByte_eq (c : Char) : symbolByte c = if isSymbol c then some (charByte c) else none := by
  by_cases hc : c ∈ ['+', '-', '<', '>', '[', ']', '.', ',']
  · rw [if_pos ((isSymbol_iff c).2 hc)]
    have hrows : ∀ c ∈ ['+', '-', '<', '>', '[', ']', '.', ','], symbolByte c = some (charByte c) := by
      simp [symbolByte, charByte]
    exact hrows c hc
  · rw [if_neg (mt (isSymbol_iff c).1 hc)]
    simp only [List.mem_cons, List.not_mem_nil, or_false, not_or] at hc
    simp only [symbolByte, hc, if_false]

theorem assemble_eq (src : List Char) :
    assemble src = [0x00, 0x00] ++ (src.filter isSymbol).map charByte := by
  rw [assemble, ← List.filterMap_eq_map', List.filterMap_filter]
  simp only [symbolByte_eq]

/-- Settles O5: the image in closed form, its length that of the filtered source. -/
theorem imageIsFilteredSource : Obligations.ImageIsFilteredSource := by
  intro src
  rw [assemble_eq]
  refine ⟨?_, rfl, rfl⟩
  rw [List.length_append, List.length_map, ← List.countP_eq_length_filter]
  rfl

/-! ### Admission at construction -/

theorem warmUpOk_ofBytes_iff (bs : List Byte) :
    warmUpOk (Memory.ofBytes 0 bs) = true ↔
      (decodeOp (bs.getD 0 0x00)).1 = .nop ∧ (decodeOp (bs.getD 1 0x00)).1 = .nop := by
  simp only [warmUpOk, Memory.read_ofBytes_zero, Bool.and_eq_true, beq_iff_eq]

theorem construct_of_too_long {p : Params} {image : List Byte} (padding tapeInit : List Byte) (hp : p.Wf)
    (h : p.codeSize < image.length) : construct p image padding tapeInit = .refused .imageTooLong := by
  rw [construct, if_neg (not_not.2 hp), if_pos h]

section
variable {p : Params} {image padding tapeInit : List Byte} (hp : p.Wf)
  (hcode : image.length + padding.length ≤ p.codeSize) (htape : tapeInit.length ≤ p.tapeSize)
include hp hcode htape

/-- Where parameters and lengths fit, the warm-up bytes alone decide (30_encoding.md R57). -/
theorem construct_of_fits :
    construct p image padding tapeInit =
      if warmUpOk (Memory.ofBytes 0 (image ++ padding)) then
        .next (State.initial p (Memory.ofBytes 0 (image ++ padding)) (Memory.ofBytes 0 tapeInit))
      else .refused .warmUpNotNop := by
  have himage : ¬ p.codeSize < image.length := by omega
  rw [construct, if_neg (not_not.2 hp), if_neg himage, if_neg (not_lt.2 hcode), if_neg (not_lt.2 htape)]

theorem construct_of_warmUp (hw : warmUpOk (Memory.ofBytes 0 (image ++ padding)) = true) :
    construct p image padding tapeInit =
      .next (State.initial p (Memory.ofBytes 0 (image ++ padding)) (Memory.ofBytes 0 tapeInit)) := by
  rw [construct_of_fits hp hcode htape, if_pos hw]

theorem construct_of_not_warmUp (hw : ¬ warmUpOk (Memory.ofBytes 0 (image ++ padding)) = true) :
    construct p image padding tapeInit = .refused .warmUpNotNop := by
  rw [construct_of_fits hp hcode htape, if_neg hw]

end

/-- The Assembler's two warm-up bytes are what construction asks for, whatever padding stands behind. -/
theorem warmUpOk_assemble (src : List Char) (padding : List Byte) :
    warmUpOk (Memory.ofBytes 0 (assemble src ++ padding)) = true :=
  (warmUpOk_ofBytes_iff _).2 ⟨rfl, rfl⟩

/-- Settles O6: the image is admitted by its own warm-up bytes, and what construction places in the store is read back. -/
theorem assembledImageIsAdmitted : Obligations.AssembledImageIsAdmitted := by
  intro p src hp hfit
  obtain ⟨s, hnext⟩ : ∃ s, construct p (assemble src) [] [] = .next s :=
    ⟨_, construct_of_warmUp hp (padding := []) hfit (Nat.zero_le _) (warmUpOk_assemble src [])⟩
  obtain ⟨hread, -⟩ := constructionFillsBothMemories _ _ _ _ _ hnext
  rw [List.append_nil] at hread
  have hparams : s.params = p := by
    obtain ⟨-, -, -, -, rfl⟩ := State.construct_next hnext
    rfl
  refine ⟨s, hnext, ⟨?_, fun j hj => ?_⟩, fun a ha hsize => ?_⟩
  · rwa [Nat.zero_add, hparams]
  · rw [Nat.zero_add, hread j (hj.trans_le hfit), List.getD_eq_getElem _ _ hj]
  · rw [hread a hsize, List.getD_eq_default _ _ ha]

/-- Settles O7: the length is judged before all else but the parameters, the warm-up bytes last. -/
theorem constructRefusesInadmissibleImage : Obligations.ConstructRefusesInadmissibleImage := by
  intro p image padding tapeInit hp
  refine ⟨construct_of_too_long padding tapeInit hp, fun hcode htape hop => ?_⟩
  refine construct_of_not_warmUp hp hcode htape fun hw => ?_
  obtain ⟨hzero, hone⟩ := (warmUpOk_ofBytes_iff _).1 hw
  exact hop.elim (· hzero) (· hone)

end Sys2Proof.Machine
end

section
/-! The Control Unit's tick as a whole (40_control.md): it always has one successor, it runs the instruction at `pc`, and
what it leaves alone in SKIP mode and for the opcodes that are not LOOP. -/

namespace Sys2Proof.Machine

/-! ### Which instruction a step runs, and that it always answers -/

theorem fetchInstr_eq_of_encodeByte {s : State} {i : Instr} (hi : i.wellFormed = true)
    (hbyte : s.readCode s.pc = encodeByte i) : s.fetchInstr = i :=
  (congrArg decodeByte hbyte).trans (decodeByte_encodeByte hi)

/-- Settles O11: the Decoder reads the byte of a well-formed instruction as that instruction. -/
theorem stepRunsTheDecodedInstruction : Obligations.StepRunsTheDecodedInstruction := by
  intro s i hi hr hbyte
  rw [step_of_not_rst hr, fetchInstr_eq_of_encodeByte hi hbyte, State.takeRst]

theorem ticks_exists (n : Nat) (s : State) : ∃ t, Ticks n s t := by
  induction n generalizing s with
  | zero => exact ⟨s, rfl⟩
  | succ n ih =>
    obtain ⟨u, hu⟩ := step_next s
    obtain ⟨t, ht⟩ := ih u
    exact ⟨t, u, hu, ht⟩

/-- Settles O12: every step answers a next state, so runs exist by induction; a step is a function, so they are unique. -/
theorem everyRunExistsAndIsUnique : Obligations.EveryRunExistsAndIsUnique :=
  fun n s => ⟨ticks_exists n s, fun _ _ => ticks_unique⟩

/-! ### Opcodes other than LOOP -/

/-- The inert arm of 40_control.md R64. -/
theorem dispatchArm_skip_of_ne_loop (s : State) {op : Opcode} (h : op ≠ .loop) (sign : Sign) :
    dispatchArm s .skip op sign = s.holdDefaults := by
  cases op with
  | loop => exact absurd rfl h
  | move => rfl
  | update => rfl
  | out => rfl
  | nop => rfl

/-- Only LOOP writes the registers of the skip machine. -/
theorem dispatchArm_skipRegisters_of_ne_loop (s : State) (m : Mode) {op : Opcode} (h : op ≠ .loop)
    (sign : Sign) :
    (dispatchArm s m op sign).skipMode = s.skipMode ∧
      (dispatchArm s m op sign).scanDirection = s.scanDirection ∧
      (dispatchArm s m op sign).skipLevel = s.skipLevel := by
  cases m with
  | run =>
    cases op with
    | loop => exact absurd rfl h
    | move => exact ⟨rfl, rfl, rfl⟩
    | update => exact ⟨rfl, rfl, rfl⟩
    | out => exact ⟨rfl, rfl, rfl⟩
    | nop => exact ⟨rfl, rfl, rfl⟩
  | skip =>
    rw [dispatchArm_skip_of_ne_loop s h]
    exact ⟨rfl, rfl, rfl⟩

theorem ArmResult.rst_eq {s a : State} (ha : ArmResult s a) : a.rst = s.rst := by
  cases ha <;> rfl

/-- Settles O25: the tape is UPDATE's, the skip registers are LOOP's, `ptr` is MOVE's and `outputByte` OUT's alone. -/
theorem frameOfMoveOutAndNop : Obligations.FrameOfMoveOutAndNop := by
  intro i s t ho h
  obtain rfl := Host.Outcome.next.inj ((exec_eq_commit i s).symm.trans h)
  have hloop : i.opcode ≠ .loop := fun hc => by simp [hc] at ho
  have hupdate : i.opcode ≠ .update := fun hc => by simp [hc] at ho
  have harm := dispatchArm_result s i.opcode i.sign
  have htape := (dispatchArm_tape s s.skipMode i.opcode i.sign).trans (if_neg fun hc => hupdate hc.2)
  obtain ⟨hmode, hdir, hlevel⟩ := dispatchArm_skipRegisters_of_ne_loop s s.skipMode hloop i.sign
  exact ⟨State.readTape_congr harm.params_eq htape, State.readCode_congr harm.params_eq harm.store_eq,
    harm.params_eq, harm.rst_eq, hmode, hdir, hlevel,
    fun hne => (dispatchArm_ptr ..).trans (if_neg fun hc => hne hc.2),
    fun hne => (dispatchArm_outputByte ..).trans (if_neg fun hc => hne hc.2)⟩

/-! ### SKIP mode: inert opcodes -/

/-- Within the width a step down is a subtraction, and address 0 wraps to the last (40_control.md R66). -/
theorem stepAddr_one_of_lt {bits a : Nat} (ha : a < 2 ^ bits) :
    stepAddr bits .one a = if a = 0 then 2 ^ bits - 1 else a - 1 := by
  rw [stepAddr_one]
  split
  · next hzero => rw [hzero, Nat.zero_add, Nat.mod_eq_of_lt (by omega)]
  · next hne =>
    have hback : a + (2 ^ bits - 1) = a - 1 + 2 ^ bits := by omega
    rw [hback, Nat.add_mod_right, Nat.mod_eq_of_lt (by omega)]

theorem exec_skip_of_ne_loop {i : Instr} {s : State} (ho : i.opcode ≠ .loop) (hm : s.skipMode = .skip) :
    exec i s = .next (s.commit s.holdDefaults) := by
  rw [exec_eq_commit, hm, dispatchArm_skip_of_ne_loop s ho]

/-- Settles O24: the commit of the inert arm, its `pc` by the two scan directions. -/
theorem onlyLoopActsInSkipMode : Obligations.OnlyLoopActsInSkipMode := by
  rintro i s ho ⟨hpc, -⟩ hm
  refine ⟨_, exec_skip_of_ne_loop ho hm, State.ext rfl rfl rfl ?_ rfl rfl rfl rfl rfl rfl rfl rfl rfl⟩
  rw [State.commit_pc, State.nextPc, State.holdDefaults_scanDirection]
  cases hd : s.scanDirection with
  | fwd => exact stepAddr_zero ..
  | bwd => exact stepAddr_one_of_lt hpc

/-! ### SKIP mode: no cell is read -/

/-- Another Data Tape under the same registers. -/
def State.setTape (s : State) (tape : Memory) : State := { s with tape := tape }

/-- No arm of SKIP mode reads the tape: LOOP's counts the level, the others are inert (40_control.md R64, 43_loop.md R75). -/
theorem dispatchArm_skip_setTape (s : State) (tape : Memory) (op : Opcode) (sign : Sign) :
    dispatchArm (s.setTape tape) .skip op sign = (dispatchArm s .skip op sign).setTape tape := by
  by_cases hloop : op = .loop
  · have hlevel : (s.setTape tape).nextLevel sign = s.nextLevel sign := rfl
    rw [hloop, dispatchArm, dispatchArm, scanLoopArm, scanLoopArm, hlevel]
    split <;> rfl
  · rw [dispatchArm_skip_of_ne_loop _ hloop, dispatchArm_skip_of_ne_loop _ hloop]
    rfl

/-- Over another tape the commit makes the same registers, `tapeQ` apart. -/
theorem commit_setTape (s a : State) (tape : Memory) :
    (s.setTape tape).commit (a.setTape tape) =
      { s.commit a with tape := tape, tapeQ := (a.setTape tape).readTape a.ptr } := rfl

theorem step_skip_eq_commit {s : State} (hm : s.skipMode = .skip) (hr : s.rstNow = false) :
    step s = .next (s.takeRst.commit
      (dispatchArm s.takeRst .skip (decodeOp s.fetchByte).1 (decodeOp s.fetchByte).2)) := by
  rw [step_eq_commit hr, hm]

theorem step_skip_setTape {s : State} (hm : s.skipMode = .skip) (hr : s.rstNow = false) (tape : Memory) :
    step (s.setTape tape) = .next ((s.takeRst.setTape tape).commit
      ((dispatchArm s.takeRst .skip (decodeOp s.fetchByte).1 (decodeOp s.fetchByte).2).setTape tape)) := by
  rw [← dispatchArm_skip_setTape]
  exact step_skip_eq_commit (s := s.setTape tape) hm hr

/-- Settles O39: the commit reads the tape for `tapeQ` alone, and a reset tick does not read it. -/
theorem skipTickDoesNotReadTheTape : Obligations.SkipTickDoesNotReadTheTape := by
  intro s other hm
  cases hr : s.rstNow with
  | true => exact ⟨_, _, step_of_rst hr, step_of_rst (s := s.setTape other) hr, rfl, rfl⟩
  | false =>
    have htape := dispatchArm_tape s.takeRst .skip (decodeOp s.fetchByte).1 (decodeOp s.fetchByte).2
    rw [if_neg (fun hc => nomatch hc.1)] at htape
    exact ⟨_, _, step_skip_eq_commit hm hr, step_skip_setTape hm hr other, commit_setTape .., htape⟩

end Sys2Proof.Machine
end

section
/-! The MOVE family in RUN mode (41_pointer.md R69, R70): the whole next state, for either sign. -/

namespace Sys2Proof.Machine

theorem nextPc_of_fwd {s a : State} (hd : a.scanDirection = .fwd) :
    s.nextPc a = (s.pc + 1) % 2 ^ s.params.codeAddrBits := by
  rw [State.nextPc, hd]
  exact stepAddr_zero ..

/-- Besides `ptr` and `tapeQ`, MOVE changes only what every tick in RUN mode changes. -/
theorem exec_move_run_eq {i : Instr} {s : State} (ho : i.opcode = .move) (hd : s.scanDirection = .fwd)
    (hm : s.skipMode = .run) :
    exec i s = .next
      { s with
        pc := (s.pc + 1) % 2 ^ s.params.codeAddrBits
        ptr := stepAddr s.params.tapeAddrBits i.sign s.ptr
        outputValid := false
        codeQ := s.readCode (s.pc + 1)
        tapeQ := s.readTape (stepAddr s.params.tapeAddrBits i.sign s.ptr) } := by
  have hpc : s.nextPc (moveArm i.sign s) = (s.pc + 1) % 2 ^ s.params.codeAddrBits := nextPc_of_fwd hd
  have hcodeQ : s.readCode (s.nextPc (moveArm i.sign s)) = s.readCode (s.pc + 1) := by
    rw [hpc, State.readCode_mod]
  rw [exec_move_run ho hm]
  exact congrArg _ (State.ext rfl rfl rfl hpc rfl rfl rfl rfl rfl rfl hcodeQ rfl rfl)

/-- Settles O14: sign 0 adds 1 to `ptr` modulo `2^T`, and the tape port reads modulo `2^T` as well. -/
theorem moveRightResult : Obligations.MoveRightResult := by
  rintro s ⟨hrun, -⟩ hm
  rw [exec_move_run_eq rfl (hrun hm) hm, Instr.sign, stepAddr_zero, State.readTape_mod]

/-- Settles O15: sign 1 subtracts 1 from a `ptr` within its width, and wraps at cell 0. -/
theorem moveLeftResult : Obligations.MoveLeftResult := by
  rintro s ⟨hrun, -⟩ ⟨-, hptr, -⟩ hm
  rw [exec_move_run_eq rfl (hrun hm) hm, Instr.sign, stepAddr_one_of_lt hptr]

end Sys2Proof.Machine
end

section
/-! The UPDATE family (42_cell.md R71, R72): the whole next state of one `+` or `-`, what it leaves unchanged in both modes,
and the circle of 256 cell values, which closes on the whole Data Tape because its memory is in canonical form. -/

namespace Sys2Proof.Machine

/-! ### Canonical memories are determined by their reads -/

/-- A memory that reads like a canonical one lists an address at or below the canonical one's first. -/
theorem Memory.wf.exists_mem_le_head {c : Host.Cell} {m m' : Memory} (h : Memory.wf (c :: m))
    (hread : ∀ a, Memory.read (c :: m) a = Memory.read m' a) : ∃ d ∈ m', d.1 ≤ c.1 := by
  by_contra hnone
  have hlisted : Memory.read (c :: m) c.1 = c.2 := if_pos rfl
  have hunlisted : Memory.read m' c.1 = Memory.unlisted :=
    Memory.read_of_forall_lt fun d hd => not_le.1 fun hle => hnone ⟨d, hd, hle⟩
  exact h.2 c List.mem_cons_self (hlisted.symm.trans ((hread c.1).trans hunlisted))

/-- The first address of a canonical memory that reads like another canonical one is not above the other's first. -/
theorem Memory.wf.head_le_head {c d : Host.Cell} {m m' : Memory} (h : Memory.wf (c :: m))
    (h' : Memory.wf (d :: m')) (hread : ∀ a, Memory.read (c :: m) a = Memory.read (d :: m') a) :
    d.1 ≤ c.1 := by
  obtain ⟨e, he, hle⟩ := h.exists_mem_le_head hread
  rcases List.mem_cons.1 he with rfl | he
  · exact hle
  · exact (h'.head_lt e he).le.trans hle

/-- Canonical memories that read alike list the same pairs: the same first pair, and tails that read alike. -/
theorem Memory.wf.eq_of_read_eq {m m' : Memory} (h : m.wf) (h' : m'.wf)
    (hread : ∀ a, m.read a = m'.read a) : m = m' := by
  induction m generalizing m' with
  | nil =>
    cases m' with
    | nil => rfl
    | cons d m' => simpa using h'.exists_mem_le_head fun a => (hread a).symm
  | cons c m ih =>
    cases m' with
    | nil => simpa using h.exists_mem_le_head hread
    | cons d m' =>
      have haddr : c.1 = d.1 := (h'.head_le_head h fun a => (hread a).symm).antisymm (h.head_le_head h' hread)
      have hbyte : c.2 = d.2 := by simpa [Memory.read, haddr] using hread c.1
      obtain rfl : c = d := Prod.ext haddr hbyte
      rw [ih h.tail h'.tail fun a => ?_]
      by_cases ha : a = c.1
      · rw [ha, Memory.read_of_forall_lt h.head_lt, Memory.read_of_forall_lt h'.head_lt]
      · simpa [Memory.read, ha] using hread a

/-- Writing back what a cell holds changes nothing. -/
theorem Memory.write_read_self {m : Memory} (h : m.wf) (a : Nat) : m.write a (m.read a) = m := by
  refine (Memory.wf_write h ..).eq_of_read_eq h fun x => ?_
  by_cases hx : x = a
  · rw [hx, Memory.read_write_self h]
  · exact Memory.read_write_other m _ hx

/-- Of two writes to one address the second alone counts. -/
theorem Memory.write_write_self {m : Memory} (h : m.wf) (a : Nat) (v w : Byte) :
    (m.write a v).write a w = m.write a w := by
  have hv := Memory.wf_write h a v
  refine (Memory.wf_write hv ..).eq_of_read_eq (Memory.wf_write h ..) fun x => ?_
  by_cases hx : x = a
  · rw [hx, Memory.read_write_self hv, Memory.read_write_self h]
  · rw [Memory.read_write_other _ _ hx, Memory.read_write_other _ _ hx, Memory.read_write_other _ _ hx]

/-! ### What UPDATE leaves unchanged -/

/-- Every arm leaves every cell but the one at `ptr` alone (20_memory.md R30). -/
theorem ArmResult.readTape_other {s a : State} (ha : ArmResult s a) {x : Nat}
    (hx : x % s.params.tapeSize ≠ s.ptr % s.params.tapeSize) : a.readTape x = s.readTape x := by
  cases ha with
  | update => exact State.readTape_writeCell_other s.holdDefaults _ hx
  | _ => rfl

/-- Settles O26: UPDATE's arm in RUN mode writes the cell at `ptr`, in SKIP mode it is inert; the skip registers are LOOP's,
`ptr` is MOVE's and the two outputs are OUT's. -/
theorem frameOfUpdate : Obligations.FrameOfUpdate := by
  intro i s t ho h
  obtain rfl := Host.Outcome.next.inj ((exec_eq_commit i s).symm.trans h)
  rw [ho]
  have harm := dispatchArm_result s .update i.sign
  have hskip (hm : s.skipMode = .skip) : (dispatchArm s s.skipMode .update i.sign).tape = s.tape :=
    (dispatchArm_tape ..).trans (if_neg fun hc => absurd (hm.symm.trans hc.1) (by decide))
  obtain ⟨hmode, hdir, hlevel⟩ :=
    dispatchArm_skipRegisters_of_ne_loop s s.skipMode (op := .update) (by decide) i.sign
  exact ⟨fun a ha => harm.readTape_other ha, fun hm => State.readTape_congr harm.params_eq (hskip hm),
    State.readCode_congr harm.params_eq harm.store_eq, harm.params_eq, harm.rst_eq,
    (dispatchArm_ptr ..).trans (if_neg fun hc => nomatch hc.2), hmode, hdir, hlevel,
    (dispatchArm_outputByte ..).trans (if_neg fun hc => nomatch hc.2),
    Bool.eq_false_iff.2 fun hc => nomatch ((dispatchArm_outputValid ..).1 hc).2⟩

/-! ### One UPDATE in RUN mode -/

theorem exec_update_run {i : Instr} {s : State} (ho : i.opcode = .update) (hm : s.skipMode = .run) :
    exec i s = .next (s.commit (updateArm i.sign s)) := by
  rw [exec_eq_commit, hm, ho]
  rfl

/-- Besides the tape and `tapeQ`, which loads the byte written (write-first, 20_memory.md R44), UPDATE changes only what every
tick in RUN mode changes. -/
theorem commit_updateArm_setTape {s : State} (htape : s.tape.wf) (hd : s.scanDirection = .fwd) (sign : Sign) :
    (s.commit (updateArm sign s)).setTape s.tape =
      { s with
        pc := (s.pc + 1) % 2 ^ s.params.codeAddrBits
        outputValid := false
        codeQ := s.readCode (s.pc + 1)
        tapeQ := s.cell + cellDelta sign } := by
  have hpc : s.nextPc (updateArm sign s) = (s.pc + 1) % 2 ^ s.params.codeAddrBits := nextPc_of_fwd hd
  have hcodeQ : s.readCode (s.nextPc (updateArm sign s)) = s.readCode (s.pc + 1) := by
    rw [hpc, State.readCode_mod]
  exact State.ext rfl rfl rfl hpc rfl rfl rfl rfl rfl rfl hcodeQ (updateArm_readTape_ptr htape sign) rfl

theorem commit_updateArm_readTape_other (s : State) (sign : Sign) {a : Nat}
    (ha : a % s.params.tapeSize ≠ s.ptr % s.params.tapeSize) :
    (s.commit (updateArm sign s)).readTape a = s.readTape a :=
  State.readTape_writeCell_other s.holdDefaults _ ha

/-- Settles O16: sign 0 adds 1 to the cell at `ptr`. -/
theorem incrementResult : Obligations.IncrementResult := by
  rintro s ⟨hrun, -⟩ ⟨-, -, htape, -⟩ hm
  exact ⟨_, exec_update_run rfl hm, commit_updateArm_cell htape .zero,
    fun _ ha => commit_updateArm_readTape_other s .zero ha, commit_updateArm_setTape htape (hrun hm) .zero⟩

/-- Settles O17: sign 1 adds -1 to the cell at `ptr`. -/
theorem decrementResult : Obligations.DecrementResult := by
  rintro s ⟨hrun, -⟩ ⟨-, -, htape, -⟩ hm
  rw [BitVec.sub_eq_add_neg]
  exact ⟨_, exec_update_run rfl hm, commit_updateArm_cell htape .one,
    fun _ ha => commit_updateArm_readTape_other s .one ha, commit_updateArm_setTape htape (hrun hm) .one⟩

/-! ### The circle of cell values -/

/-- `n` executed UPDATEs write `n` times the step to the cell at `ptr`. -/
theorem execTimes_update_run {i : Instr} (ho : i.opcode = .update) (n : Nat) {s : State}
    (hm : s.skipMode = .run) (htape : s.tape.wf) :
    ∃ t, ExecTimes i n s t ∧ t.ptr = s.ptr ∧
      t.tape = s.tape.write (s.ptr % s.params.tapeSize) (s.cell + n • cellDelta i.sign) := by
  induction n generalizing s with
  | zero =>
    refine ⟨s, rfl, rfl, ?_⟩
    rw [zero_nsmul, add_zero]
    exact (Memory.write_read_self htape _).symm
  | succ n ih =>
    have htape' : (s.commit (updateArm i.sign s)).tape.wf :=
      State.writeCell_tape_wf (s := s.holdDefaults) htape _
    obtain ⟨t, ht, hptr, hwrite⟩ := ih (s := s.commit (updateArm i.sign s)) hm htape'
    refine ⟨t, ⟨_, exec_update_run ho hm, ht⟩, hptr, ?_⟩
    rw [hwrite, commit_updateArm_cell htape, add_assoc, ← succ_nsmul']
    exact Memory.write_write_self htape _ _ _

/-- 256 steps of either sign are 0 modulo 256. -/
theorem nsmul_256_cellDelta (sign : Sign) : 256 • cellDelta sign = 0 := by
  cases sign <;> decide

/-- Settles O37: the cell at `ptr` is written with its own value, which leaves a canonical tape as it was. -/
theorem update256TimesReturnsTheTape : Obligations.Update256TimesReturnsTheTape := by
  rintro i s ho - ⟨-, -, htape, -⟩ hm
  obtain ⟨t, ht, hptr, hwrite⟩ := execTimes_update_run ho 256 hm htape
  rw [nsmul_256_cellDelta, add_zero] at hwrite
  exact ⟨t, ht, hptr, hwrite.trans (Memory.write_read_self htape _)⟩

end Sys2Proof.Machine
end

section
/-! One tick of the LOOP family (43_loop.md R73 to R77): the whole next state of `[` and `]` in both modes, and the level
as a counter of `W` bits. -/

namespace Sys2Proof.Machine

/-! ### The tick that writes the skip registers -/

/-- The state after a tick that began in `s` and writes the skip registers: `pc` moves one in the direction written,
`outputValid` falls and the port registers load. -/
def State.loopTick (s : State) (mode : Mode) (d : Direction) (level : Int) : State :=
  { s with
    skipMode := mode, scanDirection := d, skipLevel := level
    pc := stepAddr s.params.codeAddrBits d.sign s.pc
    outputValid := false
    codeQ := s.readCode (stepAddr s.params.codeAddrBits d.sign s.pc)
    tapeQ := s.readTape s.ptr }

theorem State.loopTick_fwd (s : State) (mode : Mode) (level : Int) :
    s.loopTick mode .fwd level =
      { s with
        skipMode := mode, scanDirection := .fwd, skipLevel := level
        pc := (s.pc + 1) % 2 ^ s.params.codeAddrBits
        outputValid := false
        codeQ := s.readCode (s.pc + 1)
        tapeQ := s.readTape s.ptr } := by
  rw [State.loopTick, Direction.sign, stepAddr_zero, State.readCode_mod]

theorem State.loopTick_bwd {s : State} (hpc : s.pc < s.params.codeSize) (mode : Mode) (level : Int) :
    s.loopTick mode .bwd level =
      { s with
        skipMode := mode, scanDirection := .bwd, skipLevel := level
        pc := if s.pc = 0 then 2 ^ s.params.codeAddrBits - 1 else s.pc - 1
        outputValid := false
        codeQ := s.readCode (if s.pc = 0 then 2 ^ s.params.codeAddrBits - 1 else s.pc - 1)
        tapeQ := s.readTape s.ptr } := by
  rw [State.loopTick, Direction.sign, stepAddr_one_of_lt hpc]

/-- Committing the hold defaults writes the skip registers with their own values. -/
theorem State.commit_holdDefaults (s : State) :
    s.commit s.holdDefaults = s.loopTick s.skipMode s.scanDirection s.skipLevel := rfl

/-! ### RUN mode -/

/-- In RUN mode `[` enters the skip on a zero cell (43_loop.md R73). -/
theorem exec_loopOpen_run {s : State} (hm : s.skipMode = .run) :
    exec .loopOpen s = .next
      (if s.readTape s.ptr = 0 then s.loopTick .skip .fwd (-1) else s.loopTick .run s.scanDirection s.skipLevel) := by
  refine (tick_run hm).trans (congrArg _ ?_)
  simp only [openArm, isZero_iff, State.cell]
  split
  · rfl
  · rw [State.commit_holdDefaults, hm]

/-- In RUN mode `]` enters the skip on a non-zero cell (43_loop.md R74). -/
theorem exec_loopClose_run {s : State} (hm : s.skipMode = .run) :
    exec .loopClose s = .next
      (if s.readTape s.ptr = 0 then s.loopTick .run s.scanDirection s.skipLevel else s.loopTick .skip .bwd 1) := by
  refine (tick_run hm).trans (congrArg _ ?_)
  simp only [closeArm, isZero_iff, State.cell]
  split
  · rw [State.commit_holdDefaults, hm]
  · rfl

/-- Falling through a bracket, nothing changes but what every tick in RUN mode changes. -/
theorem loopTick_run_self {s : State} (hm : s.skipMode = .run) (hd : s.scanDirection = .fwd) :
    s.loopTick .run s.scanDirection s.skipLevel =
      { s with
        pc := (s.pc + 1) % 2 ^ s.params.codeAddrBits
        outputValid := false
        codeQ := s.readCode (s.pc + 1)
        tapeQ := s.readTape s.ptr } := by
  rw [hd, State.loopTick_fwd, ← hm, ← hd]

/-- Settles O18: `[` in RUN mode, on a zero cell and on any other. -/
theorem openInRunMode : Obligations.OpenInRunMode := by
  rintro s ⟨hrun, -⟩ hm
  constructor <;> intro hz <;> rw [exec_loopOpen_run hm]
  · rw [if_pos hz, State.loopTick_fwd]
  · rw [if_neg hz, loopTick_run_self hm (hrun hm)]

/-- Settles O19: `]` in RUN mode, on a non-zero cell and on a zero one. -/
theorem closeInRunMode : Obligations.CloseInRunMode := by
  rintro s ⟨hrun, -⟩ ⟨hpc, -⟩ hm
  constructor <;> intro hz <;> rw [exec_loopClose_run hm]
  · rw [if_neg hz, State.loopTick_bwd hpc]
  · rw [if_pos hz, loopTick_run_self hm (hrun hm)]

/-! ### The level in `W` bits -/

theorem wrapLevel_add_size {bits : Nat} (hb : 1 ≤ bits) (x : Int) :
    wrapLevel bits (x + 2 * 2 ^ (bits - 1)) = wrapLevel bits x := by
  have hsize : ((2 ^ bits : Nat) : Int) = 2 * 2 ^ (bits - 1) := by
    rw [← pow_succ', Nat.sub_add_cancel hb]
    push_cast
    rfl
  rw [← hsize]
  exact Int.add_bmod_right ..

section
variable {s : State} (hwf : s.params.Wf) (hs : s.InWidths)
include hwf hs

/-- A `[` takes 1 from the level, and below the least one wraps to the greatest. -/
theorem State.nextLevel_one :
    s.nextLevel .one =
      if s.skipLevel = -2 ^ (s.params.skipLevelBits - 1) then 2 ^ (s.params.skipLevelBits - 1) - 1
      else s.skipLevel - 1 := by
  obtain ⟨-, -, hw⟩ := hwf
  obtain ⟨-, -, hlow, hhigh⟩ := hs
  have hone : (1 : Int) < 2 ^ (s.params.skipLevelBits - 1) := one_lt_pow₀ (by decide) (by omega)
  rw [State.nextLevel, levelDelta_one]
  split
  · rw [← wrapLevel_add_size (by omega)]
    exact (wrapLevel_of_bounds (by omega) (by omega) (by omega)).trans (by omega)
  · exact wrapLevel_of_bounds (by omega) (by omega) (by omega)

/-- A `]` adds 1 to the level, and above the greatest one wraps to the least. -/
theorem State.nextLevel_zero :
    s.nextLevel .zero =
      if s.skipLevel = 2 ^ (s.params.skipLevelBits - 1) - 1 then -2 ^ (s.params.skipLevelBits - 1)
      else s.skipLevel + 1 := by
  obtain ⟨-, -, hw⟩ := hwf
  obtain ⟨-, -, hlow, hhigh⟩ := hs
  have hone : (1 : Int) < 2 ^ (s.params.skipLevelBits - 1) := one_lt_pow₀ (by decide) (by omega)
  rw [State.nextLevel, levelDelta_zero]
  split
  · next htop =>
    have hwrap : s.skipLevel + 1 = -2 ^ (s.params.skipLevelBits - 1) + 2 * 2 ^ (s.params.skipLevelBits - 1) := by
      omega
    rw [hwrap, wrapLevel_add_size (by omega)]
    exact wrapLevel_of_bounds (by omega) (by omega) (by omega)
  · exact wrapLevel_of_bounds (by omega) (by omega) (by omega)

theorem State.nextLevel_one_eq_zero_iff : s.nextLevel .one = 0 ↔ s.skipLevel = 1 := by
  have hone : (1 : Int) < 2 ^ (s.params.skipLevelBits - 1) := one_lt_pow₀ (by decide) (by omega)
  rw [State.nextLevel_one hwf hs]
  split <;> omega

theorem State.nextLevel_zero_eq_zero_iff : s.nextLevel .zero = 0 ↔ s.skipLevel = -1 := by
  have hone : (1 : Int) < 2 ^ (s.params.skipLevelBits - 1) := one_lt_pow₀ (by decide) (by omega)
  rw [State.nextLevel_zero hwf hs]
  split <;> omega

end

/-! ### SKIP mode -/

theorem stepAddr_scan {bits a : Nat} (ha : a < 2 ^ bits) (d : Direction) :
    stepAddr bits d.sign a =
      match d with
      | .fwd => (a + 1) % 2 ^ bits
      | .bwd => if a = 0 then 2 ^ bits - 1 else a - 1 := by
  cases d with
  | fwd => exact stepAddr_zero ..
  | bwd => exact stepAddr_one_of_lt ha

section
variable {i : Instr} {s : State} (ho : i.opcode = .loop) (hm : s.skipMode = .skip)
include ho hm

theorem exec_loop_skip : exec i s = .next (s.commit (scanLoopArm i.sign s)) := by
  rw [exec_eq_commit, ho, hm]
  rfl

/-- The bracket that brings the level to 0 ends the skip, whatever the scan direction was (43_loop.md R77). -/
theorem exec_loop_skip_ends (hl : s.nextLevel i.sign = 0) : exec i s = .next (s.loopTick .run .fwd 0) := by
  rw [exec_loop_skip ho hm, scanLoopArm, if_pos hl, hl]
  rfl

/-- Every other bracket is counted, and the scan goes on (43_loop.md R75, R76). -/
theorem exec_loop_skip_counts (hl : s.nextLevel i.sign ≠ 0) :
    exec i s = .next (s.loopTick s.skipMode s.scanDirection (s.nextLevel i.sign)) := by
  rw [exec_loop_skip ho hm, scanLoopArm, if_neg hl]
  rfl

end

/-- Settles O20: a `[` makes the level 0 from 1 alone; from any other level it is counted. -/
theorem openInSkipMode : Obligations.OpenInSkipMode := by
  intro s hwf hs hm
  have hends := State.nextLevel_one_eq_zero_iff hwf hs
  refine ⟨fun hl => ?_, fun hl => ?_⟩
  · rw [exec_loop_skip_ends (i := .loopOpen) rfl hm (hends.2 hl), State.loopTick_fwd]
  · have hcount : s.nextLevel .one ≠ 0 := fun hc => hl (hends.1 hc)
    refine ⟨_, exec_loop_skip_counts rfl hm hcount, State.ext rfl rfl rfl ?_ rfl rfl rfl ?_ rfl rfl rfl rfl rfl⟩
    · exact stepAddr_scan hs.1 _
    · exact State.nextLevel_one hwf hs

/-- Settles O21: a `]` makes the level 0 from -1 alone; from any other level it is counted. -/
theorem closeInSkipMode : Obligations.CloseInSkipMode := by
  intro s hwf hs hm
  have hends := State.nextLevel_zero_eq_zero_iff hwf hs
  refine ⟨fun hl => ?_, fun hl => ?_⟩
  · rw [exec_loop_skip_ends (i := .loopClose) rfl hm (hends.2 hl), State.loopTick_fwd]
  · have hcount : s.nextLevel .zero ≠ 0 := fun hc => hl (hends.1 hc)
    refine ⟨_, exec_loop_skip_counts rfl hm hcount, State.ext rfl rfl rfl ?_ rfl rfl rfl ?_ rfl rfl rfl rfl rfl⟩
    · exact stepAddr_scan hs.1 _
    · exact State.nextLevel_zero hwf hs

theorem exec_loop_skip_skipLevel {i : Instr} {s t : State} (ho : i.opcode = .loop) (hm : s.skipMode = .skip)
    (h : exec i s = .next t) : t.skipLevel = s.nextLevel i.sign := by
  obtain rfl := Host.Outcome.next.inj ((exec_loop_skip ho hm).symm.trans h)
  exact scanLoopArm_skipLevel ..

/-- Settles O35: the integer of a `W`-bit pattern plus or minus 1 is the wrapped level. -/
theorem skipLevelIsTwosComplement : Obligations.SkipLevelIsTwosComplement := by
  rintro s t ⟨-, -, hw⟩ hm
  have hone : (1 : BitVec s.params.skipLevelBits).toInt = 1 := BitVec.toInt_one hw
  constructor <;> intro h <;> rw [exec_loop_skip_skipLevel rfl hm h]
  · rw [BitVec.toInt_sub, BitVec.toInt_ofInt, hone, Int.bmod_sub_bmod]
    rfl
  · rw [BitVec.toInt_add, BitVec.toInt_ofInt, hone, Int.bmod_add_bmod]
    rfl

/-! ### Both modes -/

/-- Settles O27: LOOP's arms write the skip registers alone. -/
theorem frameOfLoop : Obligations.FrameOfLoop := by
  intro i s t ho h
  obtain rfl := Host.Outcome.next.inj ((exec_eq_commit i s).symm.trans h)
  rw [ho]
  have harm := dispatchArm_result s .loop i.sign
  have htape := (dispatchArm_tape s s.skipMode .loop i.sign).trans (if_neg fun hc => nomatch hc.2)
  exact ⟨State.readTape_congr harm.params_eq htape, State.readCode_congr harm.params_eq harm.store_eq,
    harm.params_eq, harm.rst_eq, (dispatchArm_ptr ..).trans (if_neg fun hc => nomatch hc.2),
    (dispatchArm_outputByte ..).trans (if_neg fun hc => nomatch hc.2),
    Bool.eq_false_iff.2 fun hc => nomatch ((dispatchArm_outputValid ..).1 hc).2⟩

end Sys2Proof.Machine
end

section
/-! Brackets (43_loop.md R78): the nesting of a stretch of program, its bounds on both ends of a balanced
one, and the syntactic match of every bracket. -/

namespace Sys2Proof.Machine

/-! ### Nesting -/

theorem nesting_open (bs : List Byte) : nesting (0x5B :: bs) = 1 + nesting bs := rfl

theorem nesting_close (bs : List Byte) : nesting (0x5D :: bs) = -1 + nesting bs := rfl

theorem nesting_cons_of_plain {b : Byte} (ho : b ≠ 0x5B) (hc : b ≠ 0x5D) (bs : List Byte) :
    nesting (b :: bs) = nesting bs := by
  rw [nesting, if_neg ho, if_neg hc, zero_add]

theorem nesting_append (xs ys : List Byte) : nesting (xs ++ ys) = nesting xs + nesting ys := by
  induction xs with
  | nil => exact (zero_add _).symm
  | cons x xs ih => rw [List.cons_append, nesting, nesting, ih, add_assoc]

theorem nesting_reverse (bs : List Byte) : nesting bs.reverse = nesting bs := by
  induction bs with
  | nil => rfl
  | cons b bs ih => rw [List.reverse_cons, nesting_append, ih, add_comm, ← nesting_append, List.singleton_append]

theorem nesting_le_length (bs : List Byte) : nesting bs ≤ bs.length := by
  induction bs with
  | nil => exact le_rfl
  | cons b bs ih =>
    rw [nesting, List.length_cons]
    push_cast
    split
    · omega
    · split <;> omega

/-! ### Balanced stretches -/

theorem Balanced.nesting_eq_zero {bs : List Byte} (h : Balanced bs) : nesting bs = 0 := by
  induction h with
  | empty => rfl
  | plain ho hc _ ih => rw [nesting_cons_of_plain ho hc, ih]
  | loop _ _ ihb ih => rw [nesting_open, nesting_append, nesting_close, ihb, ih]; rfl

/-- Read forward, a balanced stretch closes no bracket that it did not open. -/
theorem Balanced.nesting_take_nonneg {bs : List Byte} (h : Balanced bs) (j : Nat) : 0 ≤ nesting (bs.take j) := by
  induction h generalizing j with
  | empty => rw [List.take_nil, nesting]
  | plain ho hc _ ih =>
    cases j with
    | zero => exact le_rfl
    | succ j => exact (nesting_cons_of_plain ho hc _).symm ▸ ih j
  | @loop body bs hb _ ihb ih =>
    cases j with
    | zero => exact le_rfl
    | succ j =>
      rw [List.take_succ_cons, nesting_open, List.take_append, nesting_append]
      cases hk : j - body.length with
      | zero =>
        have hbody := ihb j
        rw [List.take_zero, nesting]
        omega
      | succ k =>
        have hrest := ih k
        rw [List.take_of_length_le (by omega), hb.nesting_eq_zero, List.take_succ_cons, nesting_close]
        omega

/-- What the end of a balanced stretch gives, the part before it lacks. -/
theorem Balanced.nesting_drop {bs : List Byte} (h : Balanced bs) (j : Nat) :
    nesting (bs.drop j) = -nesting (bs.take j) := by
  rw [eq_neg_iff_add_eq_zero, add_comm, ← nesting_append, List.take_append_drop, h.nesting_eq_zero]

/-- Read backward, a balanced stretch opens no bracket that it did not close. -/
theorem Balanced.nesting_drop_nonpos {bs : List Byte} (h : Balanced bs) (j : Nat) : nesting (bs.drop j) ≤ 0 := by
  rw [h.nesting_drop]
  exact neg_nonpos.2 (h.nesting_take_nonneg j)

/-! ### The match of a bracket -/

/-- Two ways to cut one list at a byte: one cut lies in front of the other, or they are the same. -/
theorem append_cons_eq_append_cons_cases {α : Type} {xs ys pre post : List α} {b c : α}
    (h : xs ++ b :: ys = pre ++ c :: post) :
    (∃ mid, xs = pre ++ c :: mid ∧ post = mid ++ b :: ys) ∨ (xs = pre ∧ b = c ∧ ys = post) ∨
      ∃ mid, pre = xs ++ b :: mid ∧ ys = mid ++ c :: post := by
  obtain ⟨mid, hpre, hmid⟩ | ⟨mid, hxs, hmid⟩ := List.append_eq_append_iff.1 h
  · cases mid with
    | nil =>
      obtain ⟨hbc, hys⟩ := List.cons.inj hmid
      exact .inr (.inl ⟨by simpa using hpre.symm, hbc, hys⟩)
    | cons d mid =>
      obtain ⟨rfl, hys⟩ := List.cons.inj hmid
      exact .inr (.inr ⟨mid, hpre, hys⟩)
  · cases mid with
    | nil =>
      obtain ⟨hcb, hpost⟩ := List.cons.inj hmid
      exact .inr (.inl ⟨by simpa using hxs, hcb.symm, hpost.symm⟩)
    | cons d mid =>
      obtain ⟨rfl, hpost⟩ := List.cons.inj hmid
      exact .inl ⟨mid, hxs, hpost⟩

/-- A `[` stands at the head of a loop, in its body, or behind its `]`. -/
theorem Balanced.open_has_match {bs : List Byte} (h : Balanced bs) {pre post : List Byte}
    (hcut : bs = pre ++ 0x5B :: post) : ∃ body rest, post = body ++ 0x5D :: rest ∧ Balanced body := by
  induction h generalizing pre post with
  | empty => simp at hcut
  | plain ho _ _ ih =>
    cases pre with
    | nil => exact absurd (List.cons.inj hcut).1 ho
    | cons _ pre => exact ih (List.cons.inj hcut).2
  | @loop body bs hb _ ihb ih =>
    cases pre with
    | nil => exact ⟨body, bs, (List.cons.inj hcut).2.symm, hb⟩
    | cons _ pre =>
      obtain ⟨mid, hbody, rfl⟩ | ⟨-, hne, -⟩ | ⟨mid, -, hbs⟩ :=
        append_cons_eq_append_cons_cases (List.cons.inj hcut).2
      · obtain ⟨inner, rest, rfl, hinner⟩ := ihb hbody
        exact ⟨inner, rest ++ 0x5D :: bs, by simp, hinner⟩
      · exact absurd hne (by decide)
      · exact ih hbs

/-- A `]` stands in the body of a loop, at its end, or behind it. -/
theorem Balanced.close_has_match {bs : List Byte} (h : Balanced bs) {pre post : List Byte}
    (hcut : bs = pre ++ 0x5D :: post) : ∃ rest body, pre = rest ++ 0x5B :: body ∧ Balanced body := by
  induction h generalizing pre post with
  | empty => simp at hcut
  | @plain b _ _ hc _ ih =>
    cases pre with
    | nil => exact absurd (List.cons.inj hcut).1 hc
    | cons _ pre =>
      obtain ⟨rest, inner, rfl, hinner⟩ := ih (List.cons.inj hcut).2
      exact ⟨_ :: rest, inner, rfl, hinner⟩
  | @loop body bs hb _ ihb ih =>
    cases pre with
    | nil => exact absurd (List.cons.inj hcut).1 (by decide)
    | cons d pre =>
      obtain ⟨rfl, htail⟩ := List.cons.inj hcut
      obtain ⟨mid, hbody, -⟩ | ⟨rfl, -, -⟩ | ⟨mid, rfl, hbs⟩ :=
        append_cons_eq_append_cons_cases htail
      · obtain ⟨rest, inner, rfl, hinner⟩ := ihb hbody
        exact ⟨0x5B :: rest, inner, rfl, hinner⟩
      · exact ⟨[], body, rfl, hb⟩
      · obtain ⟨rest, inner, rfl, hinner⟩ := ih hbs
        exact ⟨0x5B :: (body ++ 0x5D :: rest), inner, by simp, hinner⟩

/-- Settles O58: by induction on the balanced stretch. -/
theorem everyBracketOfBalancedProgramHasItsMatch : Obligations.EveryBracketOfBalancedProgramHasItsMatch :=
  fun _ h => ⟨fun _ _ hcut => h.open_has_match hcut, fun _ _ hcut => h.close_has_match hcut⟩

end Sys2Proof.Machine
end

section
/-! The run of a skip (43_loop.md R75 to R79): its level is the level at its start less the nesting of the bytes scanned,
in `W` bits, and the skip ends at the first byte that brings it to 0. -/

namespace Sys2Proof.Machine

/-! ### One tick of a skip -/

/-- A byte's bracket count, by what the Decoder reads: the opposite of LOOP's step of the level (43_loop.md R75, R76). -/
theorem nesting_singleton (b : Byte) :
    nesting [b] = if (decodeByte b).opcode = .loop then -levelDelta (decodeByte b).sign else 0 := by
  by_cases ho : b = 0x5B
  · subst ho; rfl
  by_cases hc : b = 0x5D
  · subst hc; rfl
  have hplain : (decodeByte b).opcode ≠ .loop := by
    rw [decodeByte, if_neg ho, if_neg hc]
    repeat' split
    all_goals exact nofun
  rw [nesting_cons_of_plain ho hc, if_neg hplain, nesting]

/-- The level in `W` bits after the byte at `pc` is counted. -/
def State.scanLevel (s : State) : Int :=
  wrapLevel s.params.skipLevelBits (s.skipLevel - nesting [s.fetchByte])

/-- Whatever the byte, a tick in SKIP mode counts it, and ends the skip exactly when the level becomes 0. -/
theorem step_skip {s : State} (hr : s.rstNow = false) (hm : s.skipMode = .skip) (hl : s.skipLevel ≠ 0)
    (hw : wrapLevel s.params.skipLevelBits s.skipLevel = s.skipLevel) :
    step s = .next (if s.scanLevel = 0 then s.takeRst.loopTick .run .fwd 0
      else s.takeRst.loopTick .skip s.scanDirection s.scanLevel) := by
  have hcount : nesting [s.fetchByte] =
      if s.fetchInstr.opcode = .loop then -levelDelta s.fetchInstr.sign else 0 := nesting_singleton s.fetchByte
  rw [step_of_not_rst hr]
  by_cases ho : s.fetchInstr.opcode = .loop
  · have hlevel : s.takeRst.nextLevel s.fetchInstr.sign = s.scanLevel := by
      rw [State.scanLevel, hcount, if_pos ho, sub_neg_eq_add]
      rfl
    split
    · next hz => exact exec_loop_skip_ends ho hm (hlevel.trans hz)
    · next hz =>
      rw [exec_loop_skip_counts (s := s.takeRst) ho hm (hlevel.trans_ne hz), hlevel, State.takeRst_skipMode, hm]
      rfl
  · have hlevel : s.scanLevel = s.skipLevel := by
      rw [State.scanLevel, hcount, if_neg ho, sub_zero, hw]
    rw [exec_skip_of_ne_loop (s := s.takeRst) ho hm, State.commit_holdDefaults, State.takeRst_skipMode, hm, hlevel,
      if_neg hl]
    rfl

/-! ### The addresses and the bytes of a scan -/

theorem State.scanAddr_succ (s : State) (k : Nat) :
    s.scanAddr (k + 1) = stepAddr s.params.codeAddrBits s.scanDirection.sign (s.scanAddr k) := by
  unfold State.scanAddr
  cases s.scanDirection with
  | fwd => rw [Direction.sign, stepAddr_zero, Nat.mod_add_mod, Nat.add_assoc]
  | bwd => rw [Direction.sign, stepAddr_one, Nat.mod_add_mod, Nat.succ_mul, Nat.add_assoc]

theorem State.scanAddr_zero {s : State} (hpc : s.pc < s.params.codeSize) : s.scanAddr 0 = s.pc := by
  unfold State.scanAddr
  cases s.scanDirection with
  | fwd => exact Nat.mod_eq_of_lt hpc
  | bwd => rw [Nat.zero_mul]; exact Nat.mod_eq_of_lt hpc

theorem State.scanned_succ (s : State) (n : Nat) :
    s.scanned (n + 1) = s.scanned n ++ [s.readCode (s.scanAddr n)] := by
  simp [State.scanned, List.range_succ]

/-- Where the bytes of a list stand at the addresses scanned, the scan reads the list. -/
theorem State.scanned_eq_take {s : State} {bs : List Byte}
    (hbytes : ∀ k (hk : k < bs.length), s.readCode (s.scanAddr k) = bs[k]) {n : Nat} (hn : n ≤ bs.length) :
    s.scanned n = bs.take n := by
  induction n with
  | zero => rfl
  | succ n ih => rw [State.scanned_succ, ih (by omega), hbytes n hn, List.take_append_getElem hn]

/-! ### The run of a skip -/

/-- The level in `W` bits after the first `n` bytes of a scan are counted. -/
def State.scanCount (s : State) (n : Nat) : Int :=
  wrapLevel s.params.skipLevelBits (s.skipLevel - nesting (s.scanned n))

theorem State.scanCount_succ (s : State) (n : Nat) :
    s.scanCount (n + 1) =
      wrapLevel s.params.skipLevelBits (s.scanCount n - nesting [s.readCode (s.scanAddr n)]) := by
  rw [State.scanCount, State.scanned_succ, nesting_append, ← sub_sub]
  exact Int.bmod_sub_bmod.symm

theorem wrapLevel_wrapLevel (bits : Nat) (x : Int) : wrapLevel bits (wrapLevel bits x) = wrapLevel bits x :=
  Int.bmod_bmod

/-- `t` has these skip registers and this `pc`, over the data of `s`. -/
structure State.SkipsTo (s : State) (mode : Mode) (d : Direction) (level : Int) (pc : Nat) (t : State) : Prop where
  skipMode : t.skipMode = mode
  scanDirection : t.scanDirection = d
  skipLevel : t.skipLevel = level
  pc : t.pc = pc
  ptr : t.ptr = s.ptr
  tape : t.tape = s.tape
  outputByte : t.outputByte = s.outputByte

theorem State.SkipsTo.loopTick {s t : State} {mode : Mode} {d : Direction} {level : Int} {pc : Nat}
    (h : s.SkipsTo mode d level pc t) (hp : t.params = s.params) (mode' : Mode) (d' : Direction) (level' : Int) :
    s.SkipsTo mode' d' level' (stepAddr s.params.codeAddrBits d'.sign pc) (t.takeRst.loopTick mode' d' level') where
  skipMode := rfl
  scanDirection := rfl
  skipLevel := rfl
  pc := by rw [← hp, ← h.pc]; rfl
  ptr := h.ptr
  tape := h.tape
  outputByte := h.outputByte

theorem step_rst {s t : State} (h : step s = .next t) : t.rst = s.rst.tail := by
  obtain ⟨-, rfl⟩ | ⟨-, a, ha, rfl⟩ := step_cases h
  · rfl
  · exact ha.rst_eq

theorem ticks_noReset {n : Nat} {s t : State} (h : Ticks n s t) (hs : s.NoReset) : t.NoReset := by
  induction n generalizing s with
  | zero => exact h ▸ hs
  | succ n ih =>
    obtain ⟨u, hu, h⟩ := h
    exact ih h fun level hlevel => hs level (List.mem_of_mem_tail (step_rst hu ▸ hlevel))

theorem ticks_snoc {n : Nat} {s t u : State} (h : Ticks n s t) (hu : step t = .next u) : Ticks (n + 1) s u :=
  ticks_add.2 ⟨t, h, u, hu, rfl⟩

/-- The next tick of a skip that has scanned `n` bytes. -/
theorem State.SkipsTo.step_eq {s t : State} {n : Nat} (hs : s.NoReset) (h : Ticks n s t)
    (ht : s.SkipsTo .skip s.scanDirection (s.scanCount n) (s.scanAddr n) t) (hl : s.scanCount n ≠ 0) :
    step t = .next (if s.scanCount (n + 1) = 0 then t.takeRst.loopTick .run .fwd 0
      else t.takeRst.loopTick .skip s.scanDirection (s.scanCount (n + 1))) := by
  obtain ⟨hparams, hstore⟩ := ticks_keeps_params_store h
  have hlevel : t.scanLevel = s.scanCount (n + 1) := by
    rw [State.scanLevel, State.fetchByte, State.readCode_congr hparams hstore, ht.pc, ht.skipLevel, hparams,
      ← State.scanCount_succ]
  have hwrap : wrapLevel t.params.skipLevelBits t.skipLevel = t.skipLevel := by
    rw [ht.skipLevel, hparams]
    exact wrapLevel_wrapLevel ..
  rw [step_skip (noReset_rstNow (ticks_noReset h hs)) ht.skipMode (ht.skipLevel.trans_ne hl) hwrap, hlevel,
    ht.scanDirection]

section
variable {s : State} (hs : s.NoReset) (hm : s.skipMode = .skip) (hpc : s.pc < s.params.codeSize)
  (hw : wrapLevel s.params.skipLevelBits s.skipLevel = s.skipLevel)
include hs hm hpc hw

/-- As long as the count does not come to 0 the machine scans on. -/
theorem skip_scans {n : Nat} (hl : ∀ k ≤ n, s.scanCount k ≠ 0) :
    ∃ t, Ticks n s t ∧ s.SkipsTo .skip s.scanDirection (s.scanCount n) (s.scanAddr n) t := by
  induction n with
  | zero =>
    have hlevel : s.skipLevel = s.scanCount 0 := by
      rw [State.scanCount, show s.scanned 0 = [] from rfl, nesting, sub_zero, hw]
    exact ⟨s, rfl, hm, rfl, hlevel, (State.scanAddr_zero hpc).symm, rfl, rfl, rfl⟩
  | succ n ih =>
    obtain ⟨t, h, ht⟩ := ih fun k hk => hl k (hk.trans n.le_succ)
    have hstep := ht.step_eq hs h (hl n n.le_succ)
    rw [if_neg (hl (n + 1) le_rfl)] at hstep
    rw [State.scanAddr_succ]
    exact ⟨_, ticks_snoc h hstep, ht.loopTick (ticks_keeps_params_store h).1 ..⟩

/-- The byte that brings the count to 0 ends the skip, at the byte after it (43_loop.md R77). -/
theorem skip_ends {n : Nat} (hl : ∀ k ≤ n, s.scanCount k ≠ 0) (hz : s.scanCount (n + 1) = 0) :
    ∃ t, Ticks (n + 1) s t ∧ s.SkipsTo .run .fwd 0 ((s.scanAddr n + 1) % 2 ^ s.params.codeAddrBits) t := by
  obtain ⟨t, h, ht⟩ := skip_scans hs hm hpc hw hl
  have hstep := ht.step_eq hs h (hl n le_rfl)
  rw [if_pos hz] at hstep
  rw [← stepAddr_zero]
  exact ⟨_, ticks_snoc h hstep, ht.loopTick (ticks_keeps_params_store h).1 ..⟩

end

/-- Settles O55: the count is the level of the run, from any state in SKIP mode. -/
theorem skipEndsWhereTheBracketCountReachesZero : Obligations.SkipEndsWhereTheBracketCountReachesZero := by
  rintro s n ⟨⟨-, -, hbits⟩, -, ⟨hpc, -, hlow, hhigh⟩, -⟩ hs hm hl
  have hw := wrapLevel_of_bounds (by omega) hlow hhigh
  refine ⟨?_, fun hz => ?_⟩
  · obtain ⟨t, h, ht⟩ := skip_scans hs hm hpc hw hl
    exact ⟨t, h, ht.skipMode, ht.scanDirection, ht.skipLevel, ht.pc, ht.ptr, ht.tape, ht.outputByte⟩
  · obtain ⟨t, h, ht⟩ := skip_ends hs hm hpc hw hl hz
    exact ⟨t, h, ht.skipMode, ht.scanDirection, ht.skipLevel, ht.pc, ht.ptr, ht.tape, ht.outputByte⟩

end Sys2Proof.Machine
end

section
/-! Loop balance (43_loop.md R78): a skip entered at a bracket with a balanced body visits the body at levels of one sign
and ends at the matching bracket, because no level of it wraps in `W >= C + 1` bits. -/

namespace Sys2Proof.Machine

/-! ### A scan without wrapping -/

theorem State.scanAddr_fwd {s : State} {k : Nat} (hd : s.scanDirection = .fwd) (hk : s.pc + k < s.params.codeSize) :
    s.scanAddr k = s.pc + k := by
  rw [State.scanAddr, hd]
  exact Nat.mod_eq_of_lt hk

theorem State.scanAddr_bwd {s : State} {k : Nat} (hd : s.scanDirection = .bwd) (hpc : s.pc < s.params.codeSize)
    (hk : k ≤ s.pc) : s.scanAddr k = s.pc - k := by
  have hback : s.pc + k * (s.params.codeSize - 1) = s.pc - k + k * s.params.codeSize := by
    rw [Nat.mul_sub_one]
    have := Nat.le_mul_of_pos_right k (State.codeSize_pos s.params)
    omega
  rw [State.scanAddr, hd]
  simp only [hback, Nat.add_mul_mod_self_right]
  exact Nat.mod_eq_of_lt (by omega)

/-- With `W >= C + 1` a level as small as an address does not wrap. -/
theorem wrapLevel_of_codeSize {p : Params} {x : Int} (hbits : p.codeAddrBits + 1 ≤ p.skipLevelBits)
    (hlow : -(p.codeSize : Int) ≤ x) (hhigh : x < p.codeSize) : wrapLevel p.skipLevelBits x = x := by
  have hsize : (p.codeSize : Int) ≤ 2 ^ (p.skipLevelBits - 1) := by
    exact_mod_cast Nat.pow_le_pow_right two_pos (by omega)
  exact wrapLevel_of_bounds (by omega) (by omega) (by omega)

/-! ### A skip over a stretch of program -/

section
variable {s : State} {bs : List Byte} {last : Byte} (hs : s.NoReset) (hm : s.skipMode = .skip)
  (hpc : s.pc < s.params.codeSize)
  (hbytes : ∀ k (hk : k < (bs ++ [last]).length), s.readCode (s.scanAddr k) = (bs ++ [last])[k])
  (hlevel : ∀ k ≤ bs.length, s.skipLevel ≠ nesting (bs.take k) ∧
    wrapLevel s.params.skipLevelBits (s.skipLevel - nesting (bs.take k)) = s.skipLevel - nesting (bs.take k))
include hlevel

theorem wrapLevel_skipLevel : wrapLevel s.params.skipLevelBits s.skipLevel = s.skipLevel := by
  simpa [nesting] using (hlevel 0 (Nat.zero_le _)).2

include hbytes

theorem scanCount_eq_sub_nesting {k : Nat} (hk : k ≤ bs.length) :
    s.scanCount k = s.skipLevel - nesting (bs.take k) := by
  rw [State.scanCount, State.scanned_eq_take hbytes (by simp; omega), List.take_append_of_le_length hk]
  exact (hlevel k hk).2

theorem scanCount_ne_zero_of_nesting {k : Nat} (hk : k ≤ bs.length) : s.scanCount k ≠ 0 := by
  rw [scanCount_eq_sub_nesting hbytes hlevel hk]
  exact sub_ne_zero.2 (hlevel k hk).1

include hs hm hpc

theorem skip_visits {k : Nat} (hk : k ≤ bs.length) :
    ∃ t, Ticks k s t ∧ s.SkipsTo .skip s.scanDirection (s.skipLevel - nesting (bs.take k)) (s.scanAddr k) t := by
  rw [← scanCount_eq_sub_nesting hbytes hlevel hk]
  exact skip_scans hs hm hpc (wrapLevel_skipLevel hlevel)
    fun j hj => scanCount_ne_zero_of_nesting hbytes hlevel (hj.trans hk)

theorem skip_ends_at_last (hlast : s.skipLevel = nesting (bs ++ [last])) :
    ∃ t, Ticks (bs.length + 1) s t ∧
      s.SkipsTo .run .fwd 0 ((s.scanAddr bs.length + 1) % 2 ^ s.params.codeAddrBits) t := by
  refine skip_ends hs hm hpc (wrapLevel_skipLevel hlevel) (fun j hj => scanCount_ne_zero_of_nesting hbytes hlevel hj) ?_
  rw [State.scanCount, State.scanned_eq_take hbytes (by simp), List.take_of_length_le (by simp), hlast, sub_self]
  exact Int.zero_bmod

end

/-! ### Forward, from `[` to `]` -/

theorem State.HoldsAt.loop_fits {s : State} {a : Nat} {body : List Byte}
    (h : s.HoldsAt a (0x5B :: (body ++ [0x5D]))) : a + body.length + 2 ≤ s.params.codeSize := by
  have hfit := h.1
  rw [List.length_cons, List.length_append, List.length_singleton] at hfit
  omega

/-- With `W >= C + 1` no level of a scan over a loop's body wraps: the nesting stays below the body's length. -/
theorem wrapLevel_of_nesting {s : State} {a : Nat} {body stretch : List Byte} {x : Int}
    (hbits : s.params.codeAddrBits + 1 ≤ s.params.skipLevelBits) (h : s.HoldsAt a (0x5B :: (body ++ [0x5D])))
    (hstretch : stretch.length ≤ body.length) (hlow : -1 - nesting stretch ≤ x) (hhigh : x ≤ 1 + nesting stretch) :
    wrapLevel s.params.skipLevelBits x = x := by
  have hfit := h.loop_fits
  have hle := nesting_le_length stretch
  exact wrapLevel_of_codeSize hbits (by omega) (by omega)

/-- The state in which a `[` on a zero cell leaves the machine. -/
def State.skipForward (s : State) : State := s.takeRst.loopTick .skip .fwd (-1)

theorem step_enters_forward {s : State} (hs : s.NoReset) (hm : s.skipMode = .run)
    (hbyte : s.readCode s.pc = 0x5B) (hz : s.readTape s.ptr = 0) :
    step s = .next s.skipForward := by
  rw [step_of_not_rst (noReset_rstNow hs), fetchInstr_eq_of_encodeByte (i := .loopOpen) rfl hbyte,
    exec_loopOpen_run (s := s.takeRst) hm]
  exact congrArg _ (if_pos hz)

section
variable {s : State} {body : List Byte} (hcode : s.HoldsAt s.pc (0x5B :: (body ++ [0x5D])))
include hcode

theorem skipForward_pc : s.skipForward.pc = s.pc + 1 := by
  have hfit := hcode.loop_fits
  exact (stepAddr_zero ..).trans (Nat.mod_eq_of_lt (show s.pc + 1 < s.params.codeSize by omega))

theorem skipForward_scanAddr {k : Nat} (hk : k ≤ body.length) :
    s.skipForward.scanAddr k = s.pc + 1 + k := by
  have hfit := hcode.loop_fits
  have hpc := skipForward_pc hcode
  have hlt : s.pc + 1 + k < s.params.codeSize := by omega
  rw [State.scanAddr_fwd rfl (hpc ▸ hlt), hpc]

theorem skipForward_bytes (k : Nat) (hk : k < (body ++ [0x5D]).length) :
    s.skipForward.readCode (s.skipForward.scanAddr k) = (body ++ [0x5D])[k] := by
  rw [skipForward_scanAddr hcode (by simpa [Nat.lt_succ_iff] using hk), Nat.add_assoc, Nat.add_comm 1 k]
  exact hcode.2 (k + 1) (Nat.succ_lt_succ hk)

end

/-- Settles O56: the levels of the scan are `-(1 + nesting)` of the stretches at the body's head, which do not
wrap, and the `]` brings the level to 0. -/
theorem forwardSkipEndsAtMatchingBracket : Obligations.ForwardSkipEndsAtMatchingBracket := by
  intro s body _ hs _ hm hbits hcode hbal hz
  have hfit := hcode.loop_fits
  have henter := step_enters_forward hs hm (hcode.2 0 (Nat.succ_pos _)) hz
  have hs' : s.skipForward.NoReset := noReset_takeRst hs
  have hpc : s.skipForward.pc < s.params.codeSize := by
    rw [skipForward_pc hcode]
    omega
  have hbytes := skipForward_bytes hcode
  have hlevel (k : Nat) (hk : k ≤ body.length) : (-1 : Int) ≠ nesting (body.take k) ∧
      wrapLevel s.params.skipLevelBits (-1 - nesting (body.take k)) = -1 - nesting (body.take k) := by
    have hnonneg := hbal.nesting_take_nonneg k
    exact ⟨by omega, wrapLevel_of_nesting hbits hcode (List.length_take_le' ..) le_rfl (by omega)⟩
  refine ⟨fun j hj => ?_, ?_⟩
  · obtain ⟨t, h, ht⟩ := skip_visits hs' rfl hpc hbytes hlevel hj
    exact ⟨t, ⟨_, henter, h⟩, ht.skipMode, ht.scanDirection, ht.pc.trans (skipForward_scanAddr hcode hj),
      ht.skipLevel.trans (neg_add' ..).symm, hbal.nesting_take_nonneg j⟩
  · have hlast : (-1 : Int) = nesting (body ++ [0x5D]) := by
      rw [nesting_append, hbal.nesting_eq_zero]
      rfl
    obtain ⟨t, h, ht⟩ := skip_ends_at_last hs' rfl hpc hbytes hlevel hlast
    have hend := ht.pc
    rw [skipForward_scanAddr hcode le_rfl] at hend
    exact ⟨t, ⟨_, henter, h⟩, ht.skipMode, ht.scanDirection, hend.trans (by congr 1; omega),
      ht.ptr, ht.tape, ht.outputByte⟩

/-! ### Backward, from `]` to `[` -/

/-- The state in which a `]` on a non-zero cell leaves the machine. -/
def State.skipBackward (s : State) : State := s.takeRst.loopTick .skip .bwd 1

theorem step_enters_backward {s : State} (hs : s.NoReset) (hm : s.skipMode = .run)
    (hbyte : s.readCode s.pc = 0x5D) (hz : s.readTape s.ptr ≠ 0) :
    step s = .next s.skipBackward := by
  rw [step_of_not_rst (noReset_rstNow hs), fetchInstr_eq_of_encodeByte (i := .loopClose) rfl hbyte,
    exec_loopClose_run (s := s.takeRst) hm]
  exact congrArg _ (if_neg hz)

section
variable {s : State} {body : List Byte} {q : Nat} (hcode : s.HoldsAt q (0x5B :: (body ++ [0x5D])))
  (hclose : s.pc = q + 1 + body.length)
include hcode hclose

theorem readCode_pc_eq_close : s.readCode s.pc = 0x5D := by
  have hbyte := hcode.2 (body.length + 1) (by simp)
  rw [hclose, Nat.add_assoc, Nat.add_comm 1, hbyte]
  simp

theorem skipBackward_pc : s.skipBackward.pc = q + body.length := by
  have hfit := hcode.loop_fits
  refine (stepAddr_one_of_lt (show s.pc < s.params.codeSize by omega)).trans ?_
  rw [if_neg (by omega)]
  omega

theorem skipBackward_scanAddr {k : Nat} (hk : k ≤ body.length) :
    s.skipBackward.scanAddr k = q + body.length - k := by
  have hfit := hcode.loop_fits
  have hpc := skipBackward_pc hcode hclose
  have hlt : q + body.length < s.params.codeSize := by omega
  rw [State.scanAddr_bwd rfl (hpc ▸ hlt) (by omega), hpc]

theorem skipBackward_bytes (k : Nat) (hk : k < (body.reverse ++ [0x5B]).length) :
    s.skipBackward.readCode (s.skipBackward.scanAddr k) = (body.reverse ++ [0x5B])[k] := by
  have hk' : k ≤ body.length := by simpa [Nat.lt_succ_iff] using hk
  have hbyte := hcode.2 (body.length - k) (by simp; omega)
  rw [skipBackward_scanAddr hcode hclose hk', Nat.add_sub_assoc hk']
  refine hbyte.trans ?_
  simp only [← List.reverse_cons, List.getElem_reverse, ← List.cons_append, List.length_cons]
  rw [List.getElem_append_left (by simp)]
  congr 1

end

/-- Settles O57: the levels of the scan are 1 less the nesting of the stretches at the body's end, which do not
wrap, and the `[` brings the level to 0. -/
theorem backwardSkipEndsAtMatchingBracket : Obligations.BackwardSkipEndsAtMatchingBracket := by
  intro s body q _ hs _ hm hbits hcode hclose hbal hz
  have hfit := hcode.loop_fits
  have henter := step_enters_backward hs hm (readCode_pc_eq_close hcode hclose) hz
  have hs' : s.skipBackward.NoReset := noReset_takeRst hs
  have hpc : s.skipBackward.pc < s.params.codeSize := by
    rw [skipBackward_pc hcode hclose]
    omega
  have hbytes := skipBackward_bytes hcode hclose
  have hsuffix (k : Nat) : nesting (body.reverse.take k) = nesting (body.drop (body.length - k)) := by
    rw [List.take_reverse, nesting_reverse]
  have hlevel (k : Nat) (hk : k ≤ body.reverse.length) : (1 : Int) ≠ nesting (body.reverse.take k) ∧
      wrapLevel s.params.skipLevelBits (1 - nesting (body.reverse.take k)) = 1 - nesting (body.reverse.take k) := by
    have hnonneg := hbal.nesting_take_nonneg (body.length - k)
    rw [hsuffix, hbal.nesting_drop, sub_neg_eq_add]
    exact ⟨by omega, wrapLevel_of_nesting hbits hcode (List.length_take_le' ..) (by omega) le_rfl⟩
  refine ⟨fun j hj => ?_, ?_⟩
  · obtain ⟨t, h, ht⟩ := skip_visits hs' rfl hpc hbytes hlevel (by simpa using hj)
    exact ⟨t, ⟨_, henter, h⟩, ht.skipMode, ht.scanDirection,
      ht.pc.trans (skipBackward_scanAddr hcode hclose hj), ht.skipLevel.trans (congrArg _ (hsuffix j)),
      hbal.nesting_drop_nonpos _⟩
  · have hlast : (1 : Int) = nesting (body.reverse ++ [0x5B]) := by
      rw [nesting_append, nesting_reverse, hbal.nesting_eq_zero]
      rfl
    obtain ⟨t, h, ht⟩ := skip_ends_at_last hs' rfl hpc hbytes hlevel hlast
    have hend := ht.pc
    rw [List.length_reverse, skipBackward_scanAddr hcode hclose le_rfl, Nat.add_sub_cancel] at hend
    rw [List.length_reverse] at h
    exact ⟨t, ⟨_, henter, h⟩, ht.skipMode, ht.scanDirection,
      hend.trans (Nat.mod_eq_of_lt (show q + 1 < s.params.codeSize by omega)), ht.ptr, ht.tape, ht.outputByte⟩

end Sys2Proof.Machine
end

section
/-! The OUT family (44_output.md R80, R81): the whole next state of a `.` in RUN mode, and the pulse law of a run, in which
each tick's pulse answers for the `.` executed by the tick before. -/

namespace Sys2Proof.Machine

/-! ### One OUT in RUN mode -/

/-- The commit of an arm that scans forward moves `pc` one byte on (40_control.md R63), where the code port reads. -/
theorem State.commit_of_fwd {s a : State} (hd : a.scanDirection = .fwd) :
    s.commit a =
      { a with
        pc := (s.pc + 1) % 2 ^ s.params.codeAddrBits
        codeQ := s.readCode (s.pc + 1)
        tapeQ := a.readTape a.ptr } := by
  rw [State.commit, nextPc_of_fwd hd, State.readCode_mod]

/-- Settles O22: under R25 the tick commits the latched cell forward. -/
theorem outputResult : Obligations.OutputResult := by
  rintro s ⟨hrun, -⟩ hm
  have hexec : exec .output s = .next (s.commit (outArm s)) := tick_run hm
  have hfwd : (outArm s).scanDirection = .fwd := hrun hm
  rw [hexec, State.commit_of_fwd hfwd]
  rfl

/-! ### The pulse of a tick -/

/-- The `.` is the one instruction of the opcode OUT (30_encoding.md R47). -/
theorem opcode_eq_out_iff {i : Instr} : i.opcode = .out ↔ i = .output := by
  constructor
  · intro h
    cases i with
    | output => rfl
    | _ => exact nomatch h
  · rintro rfl
    rfl

/-- Without reset a tick executes a `.` where the Decoder answers OUT in RUN mode. -/
theorem executesOut_iff {s : State} (hr : s.rstNow = false) :
    s.ExecutesOut ↔ s.skipMode = .run ∧ (decodeOp (s.readCode s.pc)).1 = .out := by
  have hout : (decodeOp (s.readCode s.pc)).1 = .out ↔ s.fetchInstr = .output := by
    rw [decodeOp_eq]
    exact opcode_eq_out_iff
  rw [hout, State.ExecutesOut, and_iff_right hr]

/-- R20 with the reset tick, which executes nothing and leaves no pulse (70_reset_and_hazards.md R100). -/
theorem step_outputValid_iff {s t : State} (h : step s = .next t) : t.outputValid = true ↔ s.ExecutesOut := by
  cases hr : s.rstNow with
  | true =>
    obtain rfl := Host.Outcome.next.inj ((step_of_rst hr).symm.trans h)
    exact ⟨nofun, fun ⟨hlow, _⟩ => absurd (hr.symm.trans hlow) (by decide)⟩
  | false =>
    obtain ⟨hpulse, -⟩ := outputValidExactlyAfterExecutedOut s t hr h
    exact hpulse.trans (executesOut_iff hr).symm

theorem State.ExecutesOut.step_outputByte {s t : State} (hout : s.ExecutesOut) (h : step s = .next t) :
    t.outputByte = s.readTape s.ptr := by
  have hr : s.rstNow = false := hout.1
  obtain ⟨hload, -⟩ := outputByteLoadedByOutOnly s t hr h
  exact hload ((executesOut_iff hr).1 hout)

/-! ### The pulses of a run -/

theorem outsExecuted_succ {n : Nat} {s t : State} (h : step s = .next t) :
    outsExecuted (n + 1) s = (if s.ExecutesOut then 1 else 0) + outsExecuted n t := by
  simp only [outsExecuted, h]

/-- The pulses of a run are the one that its first state shows and one for each `.` executed before its last tick. -/
theorem countP_trace_succ (n : Nat) (s : State) :
    (Trace (n + 1) s).countP (fun o => o.outputValid) =
      (if s.outputValid = true then 1 else 0) + outsExecuted n s := by
  induction n generalizing s with
  | zero =>
    obtain ⟨t, ht⟩ := step_next s
    rw [trace_succ ht, List.countP_cons, Nat.add_comm]
    rfl
  | succ n ih =>
    obtain ⟨t, ht⟩ := step_next s
    have hpulse : (if t.outputValid = true then 1 else 0) = if s.ExecutesOut then 1 else 0 :=
      if_congr (step_outputValid_iff ht) rfl rfl
    rw [trace_succ ht, List.countP_cons, ih, hpulse, outsExecuted_succ ht, Nat.add_comm]
    rfl

/-- Settles O52: the law of one tick holds after any run, and a construction shows no pulse of its own. -/
theorem pulsesAndExecutedOutsCorrespond : Obligations.PulsesAndExecutedOutsCorrespond := by
  intro p image padding tapeInit s rst n hc
  obtain ⟨-, -, -, -, rfl⟩ := State.construct_next hc
  refine ⟨rfl, fun t u _ hu => ⟨step_outputValid_iff hu, fun hout => hout.step_outputByte hu⟩, ?_⟩
  rw [countP_trace_succ]
  exact Nat.zero_add _

end Sys2Proof.Machine
end

section
/-! The NOP family in RUN mode (45_nop.md R82, R83): the whole next state, for the comma, the pad byte and the default row. -/

namespace Sys2Proof.Machine

/-- The comma, the pad byte and the default row are the rows of the opcode NOP (30_encoding.md R47, R48). -/
theorem opcode_eq_nop_iff {i : Instr} : i.opcode = .nop ↔ i ∈ [.comma, .nopPad] ∨ ∃ b, i = .nop b := by
  cases i <;> simp [Instr.opcode]

/-- R82: in RUN mode NOP commits the hold defaults. -/
theorem exec_nop_run {i : Instr} {s : State} (ho : i.opcode = .nop) (hm : s.skipMode = .run) :
    exec i s = .next (s.commit s.holdDefaults) := by
  rw [exec_eq_commit, hm, ho]
  rfl

/-- Settles O23: under R25 the inert arm scans forward, and its commit changes only what every tick changes. -/
theorem nopResult : Obligations.NopResult := by
  rintro i s hi ⟨hrun, -⟩ hm
  have hfwd : s.holdDefaults.scanDirection = .fwd := hrun hm
  rw [exec_nop_run (opcode_eq_nop_iff.2 hi) hm, State.commit_of_fwd hfwd]
  rfl

end Sys2Proof.Machine
end

section
/-! The registers at construction (70_reset_and_hazards.md R98, R99) and after a tick with `rst = 1` (R100). -/

namespace Sys2Proof.Machine

/-- Settles O9: a construction is the registers of R98 with `rst = 0`, so its first step runs the byte at `pc`. -/
theorem executionStartsAtAddressZero : Obligations.ExecutionStartsAtAddressZero := by
  intro p image padding tapeInit s h
  obtain ⟨-, -, -, -, rfl⟩ := State.construct_next h
  exact ⟨rfl, rfl, rfl, step_of_not_rst rfl⟩

/-- Settles O10: the registers of R98 over the given parameters. -/
theorem constructionRegisterDefaults : Obligations.ConstructionRegisterDefaults := by
  intro p image padding tapeInit s h
  obtain ⟨-, -, -, -, rfl⟩ := State.construct_next h
  exact ⟨rfl, rfl, rfl, rfl, rfl, rfl, rfl⟩

/-- Settles O13: the tick commits the external reset, and its level is taken off the reset input. -/
theorem resetTickRestartsOverTheSameTape : Obligations.ResetTickRestartsOverTheSameTape := by
  intro s levels hrst
  have hnow : s.rstNow = true := by rw [State.rstNow, hrst]; rfl
  have htail : s.takeRst.rst = levels := congrArg List.tail hrst
  rw [step_of_rst hnow, State.externalReset, htail]
  rfl

end Sys2Proof.Machine
end

section
/-! Runs over NOP bytes (70_reset_and_hazards.md R102, R108): the warm-up, and the padding behind the image. -/

namespace Sys2Proof.Machine

/-- `s` after `n` ticks, at least one, that ran NOPs in RUN mode: `pc` has moved, and `outputValid`, the port registers
and the reset input are as the last tick left them (45_nop.md R82). -/
def State.afterNops (s : State) (n : Nat) : State :=
  { s with
    pc := (s.pc + n) % 2 ^ s.params.codeAddrBits
    outputValid := false
    codeQ := s.readCode (s.pc + n)
    tapeQ := s.readTape s.ptr
    rst := s.rst.drop n }

theorem State.afterNops_readCode_pc_add (s : State) (m k : Nat) :
    (s.afterNops m).readCode ((s.afterNops m).pc + k) = s.readCode (s.pc + m + k) :=
  congrArg s.store.read (Nat.mod_add_mod ..)

theorem State.afterNops_afterNops (s : State) (m n : Nat) :
    (s.afterNops m).afterNops n = s.afterNops (m + n) := by
  refine State.ext rfl rfl rfl ?_ rfl rfl rfl rfl rfl rfl ?_ rfl List.drop_drop
  · exact (Nat.mod_add_mod ..).trans (congrArg (· % _) (Nat.add_assoc ..))
  · exact (s.afterNops_readCode_pc_add m n).trans (congrArg s.readCode (Nat.add_assoc ..))

theorem step_nop_run {s : State} (hmode : s.ModeInv) (hs : s.NoReset) (hm : s.skipMode = .run)
    (hnop : (decodeOp (s.readCode s.pc)).1 = .nop) : step s = .next (s.afterNops 1) := by
  have hop : s.fetchInstr.opcode = .nop := by rwa [decodeOp_eq] at hnop
  rw [step_of_not_rst (noReset_rstNow hs), nopResult _ s.takeRst (opcode_eq_nop_iff.1 hop) hmode hm,
    State.afterNops, List.drop_one]
  rfl

/-- A walk over NOPs, one byte a tick, round the end of the store as well. -/
theorem ticks_nops {n : Nat} {s : State} (hmode : s.ModeInv) (hs : s.NoReset) (hm : s.skipMode = .run)
    (hnop : ∀ k ≤ n, (decodeOp (s.readCode (s.pc + k))).1 = .nop) : Ticks (n + 1) s (s.afterNops (n + 1)) := by
  induction n with
  | zero => exact ⟨_, step_nop_run hmode hs hm (hnop 0 le_rfl), rfl⟩
  | succ n ih =>
    have h := ih fun k hk => hnop k (hk.trans n.le_succ)
    have hbyte := s.afterNops_readCode_pc_add (n + 1) 0
    have hstep := step_nop_run (s := s.afterNops (n + 1)) hmode (ticks_noReset h hs) hm
      (hbyte ▸ hnop (n + 1) le_rfl)
    rw [State.afterNops_afterNops] at hstep
    exact ticks_snoc h hstep

/-- The bytes at the addresses 0 and 1 of a construction decode to NOP (30_encoding.md R57). -/
theorem construct_warmUp {p : Params} {image padding tapeInit : List Byte} {s : State}
    (h : construct p image padding tapeInit = .next s) {k : Nat} (hk : k ≤ 1) :
    (decodeOp (s.readCode k)).1 = .nop := by
  obtain ⟨⟨hbits, -⟩, -, -, hw, rfl⟩ := State.construct_next h
  obtain ⟨hzero, hone⟩ := Bool.and_eq_true_iff.1 hw
  have hlt : 1 < p.codeSize := Nat.one_lt_two_pow (by omega)
  have haddr : k % p.codeSize = k := Nat.mod_eq_of_lt (by omega)
  rw [State.readCode, State.initial, haddr]
  obtain rfl | rfl := Nat.le_one_iff_eq_zero_or_eq_one.1 hk
  · exact eq_of_beq hzero
  · exact eq_of_beq hone

/-- Settles O53: the walk over the two warm-up bytes. -/
theorem warmUpTakesTwoTicks : Obligations.WarmUpTakesTwoTicks := by
  intro p image padding tapeInit s h
  obtain ⟨-, hmode, -⟩ := constructionHasInvariant p image padding tapeInit s h
  obtain ⟨hpc, -⟩ := executionStartsAtAddressZero p image padding tapeInit s h
  have hnop (k : Nat) (hk : k ≤ 1) : (decodeOp (s.readCode (s.pc + k))).1 = .nop := by
    rw [hpc, Nat.zero_add]
    exact construct_warmUp h hk
  obtain ⟨-, -, -, -, rfl⟩ := State.construct_next h
  exact ⟨_, ticks_nops hmode nofun rfl hnop, rfl⟩

/-- Settles O54: the walk over the padding, which ends at the address `2^C`, that is 0. -/
theorem nopPaddingWrapsToAddressZero : Obligations.NopPaddingWrapsToAddressZero := by
  intro s hmode hs hm hpc hnop
  obtain ⟨n, hn⟩ : ∃ n, 2 ^ s.params.codeAddrBits - s.pc = n + 1 := Nat.exists_eq_add_one.2 (by omega)
  have hwrap : (s.afterNops (n + 1)).pc = 0 := by
    rw [State.afterNops, show s.pc + (n + 1) = 2 ^ s.params.codeAddrBits by omega, Nat.mod_self]
  have hwalk := ticks_nops hmode hs hm fun k (hk : k ≤ n) => hnop (s.pc + k) (by omega) (by omega)
  rw [hn]
  exact ⟨_, hwalk, hwrap, hm, hmode.1 hm, rfl, rfl, rfl, rfl, rfl, rfl⟩

end Sys2Proof.Machine
end

section
/-! The cost of a loop without inner brackets (70_reset_and_hazards.md R106, R107): RUN mode takes one tick for each
byte of the body, and a skip one for each byte of the body and one for the bracket that ends it. -/

namespace Sys2Proof.Machine

/-! ### Ticks that stay in RUN mode -/

/-- A tick of RUN mode that is no skipping bracket's stays in it and moves `pc` to the byte behind. -/
theorem step_stays_in_run {s t : State} (hmode : s.ModeInv) (hs : s.NoReset) (hm : s.skipMode = .run)
    (hopen : decodeOp (s.readCode s.pc) = (.loop, .one) → s.readTape s.ptr ≠ 0)
    (hclose : decodeOp (s.readCode s.pc) = (.loop, .zero) → s.readTape s.ptr = 0) (h : step s = .next t) :
    t.skipMode = .run ∧ t.pc = (s.pc + 1) % 2 ^ s.params.codeAddrBits := by
  obtain ⟨-, -, hchange⟩ := modeChangesOnlyAtBrackets
  have hr := noReset_rstNow hs
  have hrun : t.skipMode = .run := by
    cases ht : t.skipMode with
    | run => rfl
    | skip =>
      obtain ⟨hop, hz⟩ | ⟨hop, hz⟩ := ((hchange s t hr h).1 hm).1 ht
      · exact absurd hz (hopen hop)
      · exact absurd (hclose hop) hz
  have hfwd := (stepKeepsModeInvariant s t hmode h).1 hrun
  refine ⟨hrun, ?_⟩
  rw [next_eq_commit hr h] at hfwd ⊢
  exact nextPc_of_fwd (s := s.takeRst) hfwd

theorem decodeOp_ne_loop {b : Byte} (ho : b ≠ 0x5B) (hc : b ≠ 0x5D) : (decodeOp b).1 ≠ .loop := by
  rw [decodeOp, if_neg ho, if_neg hc]
  repeat' split
  all_goals exact nofun

theorem ticks_modeInv {n : Nat} {s t : State} (h : Ticks n s t) (hs : s.ModeInv) : t.ModeInv := by
  induction n generalizing s with
  | zero => exact h ▸ hs
  | succ n ih =>
    obtain ⟨u, hu, h⟩ := h
    exact ih h (stepKeepsModeInvariant s u hs hu)

theorem ticks_holdsAt {n : Nat} {s t : State} (h : Ticks n s t) {a : Nat} {bytes : List Byte}
    (hs : s.HoldsAt a bytes) : t.HoldsAt a bytes := by
  obtain ⟨hparams, hstore⟩ := ticks_keeps_params_store h
  obtain ⟨hfit, hbytes⟩ := hs
  exact ⟨hparams ▸ hfit, fun j hj => (State.readCode_congr hparams hstore _).trans (hbytes j hj)⟩

/-! ### A stretch without brackets in a scan -/

/-- No byte of the stretch is a bracket. -/
abbrev Straight (bs : List Byte) : Prop := ∀ b ∈ bs, b ≠ 0x5B ∧ b ≠ 0x5D

theorem Straight.balanced {bs : List Byte} (h : Straight bs) : Balanced bs := by
  induction bs with
  | nil => exact .empty
  | cons b bs ih =>
    obtain ⟨⟨ho, hc⟩, hbs⟩ := List.forall_mem_cons.1 h
    exact .plain ho hc (ih hbs)

theorem Straight.nesting_take {bs : List Byte} (h : Straight bs) (k : Nat) : nesting (bs.take k) = 0 :=
  Balanced.nesting_eq_zero (Straight.balanced fun b hb => h b (List.mem_of_mem_take hb))

theorem Straight.reverse {bs : List Byte} (h : Straight bs) : Straight bs.reverse :=
  fun b hb => h b (List.mem_reverse.1 hb)

/-- A scan of a straight stretch holds its first level, which fits in two bits and more. -/
theorem Straight.scan_level {bs : List Byte} (h : Straight bs) {bits : Nat} (hbits : 2 ≤ bits) {level : Int}
    (hlevel : level = 1 ∨ level = -1) (k : Nat) :
    level ≠ nesting (bs.take k) ∧
      wrapLevel bits (level - nesting (bs.take k)) = level - nesting (bs.take k) := by
  have hone : (1 : Int) < 2 ^ (bits - 1) := one_lt_pow₀ (by decide) (by omega)
  rw [h.nesting_take, sub_zero]
  exact ⟨by omega, wrapLevel_of_bounds (by omega) (by omega) (by omega)⟩

/-! ### The stretches of a loop's run -/

/-- `n` ticks lead from `s` to RUN mode at the address `a`. -/
def State.RunsTo (s : State) (n a : Nat) : Prop := ∃ t, Ticks n s t ∧ t.skipMode = .run ∧ t.pc = a

/-- The store holds a loop without inner brackets at `q`, and no reset comes. -/
structure State.StraightLoop (s : State) (q : Nat) (body : List Byte) : Prop where
  modeInv : s.ModeInv
  noReset : s.NoReset
  wf : s.params.Wf
  code : s.HoldsAt q (0x5B :: (body ++ [0x5D]))
  straight : Straight body

namespace State.StraightLoop

variable {s : State} {q : Nat} {body : List Byte} (hl : s.StraightLoop q body)
include hl

theorem ticks {n : Nat} {t : State} (h : Ticks n s t) : t.StraightLoop q body where
  modeInv := ticks_modeInv h hl.modeInv
  noReset := ticks_noReset h hl.noReset
  wf := (ticks_keeps_params_store h).1 ▸ hl.wf
  code := ticks_holdsAt h hl.code
  straight := hl.straight

theorem readCode_body {k : Nat} (hk : k < body.length) : s.readCode (q + 1 + k) = body[k] := by
  have hbyte := hl.code.2 (k + 1) (by simp; omega)
  rw [Nat.add_assoc, Nat.add_comm 1, hbyte, List.getElem_cons_succ, List.getElem_append_left hk]

/-- R73 on a non-zero cell: the `[` falls through to the body. -/
theorem enters (hm : s.skipMode = .run) (hpc : s.pc = q) (hz : s.readTape s.ptr ≠ 0) : s.RunsTo 1 (q + 1) := by
  have hfit := hl.code.loop_fits
  have hbyte : s.readCode s.pc = 0x5B := hpc ▸ hl.code.2 0 (Nat.succ_pos _)
  obtain ⟨t, ht⟩ := step_next s
  obtain ⟨hrun, hnext⟩ := step_stays_in_run hl.modeInv hl.noReset hm
    (fun _ => hz) (fun hop => absurd (hbyte ▸ hop) (by decide)) ht
  rw [hpc, Nat.mod_eq_of_lt (show q + 1 < s.params.codeSize by omega)] at hnext
  exact ⟨t, ⟨t, ht, rfl⟩, hrun, hnext⟩

/-- R74 on a zero cell: the `]` falls through to the byte behind the loop. -/
theorem leaves (hm : s.skipMode = .run) (hpc : s.pc = q + 1 + body.length) (hz : s.readTape s.ptr = 0) :
    s.RunsTo 1 ((q + body.length + 2) % 2 ^ s.params.codeAddrBits) := by
  have hbyte := readCode_pc_eq_close hl.code hpc
  obtain ⟨t, ht⟩ := step_next s
  obtain ⟨hrun, hnext⟩ := step_stays_in_run hl.modeInv hl.noReset hm
    (fun hop => absurd (hbyte ▸ hop) (by decide)) (fun _ => hz) ht
  exact ⟨t, ⟨t, ht, rfl⟩, hrun, hnext.trans (by congr 1; omega)⟩

theorem runs_body_to (hm : s.skipMode = .run) (hpc : s.pc = q + 1) {k : Nat} (hk : k ≤ body.length) :
    s.RunsTo k (q + 1 + k) := by
  induction k with
  | zero => exact ⟨s, rfl, hm, hpc⟩
  | succ k ih =>
    obtain ⟨t, h, htm, htpc⟩ := ih (by omega)
    have hlt := hl.ticks h
    have hfit := hlt.code.loop_fits
    obtain ⟨ho, hc⟩ := hl.straight _ (List.getElem_mem hk)
    have hplain : (decodeOp (t.readCode t.pc)).1 ≠ .loop := by
      rw [htpc, hlt.readCode_body hk]
      exact decodeOp_ne_loop ho hc
    obtain ⟨u, hu⟩ := step_next t
    obtain ⟨hrun, hnext⟩ := step_stays_in_run hlt.modeInv hlt.noReset htm
      (fun hop => absurd (congrArg Prod.fst hop) hplain) (fun hop => absurd (congrArg Prod.fst hop) hplain) hu
    rw [htpc, Nat.mod_eq_of_lt (show q + 1 + k + 1 < t.params.codeSize by omega)] at hnext
    exact ⟨u, ticks_snoc h hu, hrun, hnext⟩

/-- R73 on a zero cell: the skip over the body, which the `]` ends. -/
theorem skips (hm : s.skipMode = .run) (hpc : s.pc = q) (hz : s.readTape s.ptr = 0) :
    s.RunsTo (body.length + 2) ((q + body.length + 2) % 2 ^ s.params.codeAddrBits) := by
  subst hpc
  have hfit := hl.code.loop_fits
  have henter := step_enters_forward hl.noReset hm (hl.code.2 0 (Nat.succ_pos _)) hz
  have hpc' : s.skipForward.pc < s.params.codeSize := by
    rw [skipForward_pc hl.code]
    omega
  have hlast : (-1 : Int) = nesting (body ++ [0x5D]) := by
    rw [nesting_append, hl.straight.balanced.nesting_eq_zero]
    rfl
  obtain ⟨t, h, ht⟩ := skip_ends_at_last (s := s.skipForward) (noReset_takeRst hl.noReset) rfl hpc'
    (skipForward_bytes hl.code) (fun k _ => hl.straight.scan_level hl.wf.2.2 (.inr rfl) k) hlast
  have hend := ht.pc
  rw [skipForward_scanAddr hl.code le_rfl] at hend
  exact ⟨t, ⟨_, henter, h⟩, ht.skipMode, hend.trans (by congr 1; omega)⟩

/-- R74 on a non-zero cell: the skip back over the body, which the `[` ends. -/
theorem returns (hm : s.skipMode = .run) (hpc : s.pc = q + 1 + body.length) (hz : s.readTape s.ptr ≠ 0) :
    s.RunsTo (body.length + 2) (q + 1) := by
  have hfit := hl.code.loop_fits
  have henter := step_enters_backward hl.noReset hm (readCode_pc_eq_close hl.code hpc) hz
  have hpc' : s.skipBackward.pc < s.params.codeSize := by
    rw [skipBackward_pc hl.code hpc]
    omega
  have hlast : (1 : Int) = nesting (body.reverse ++ [0x5B]) := by
    rw [nesting_append, hl.straight.reverse.balanced.nesting_eq_zero]
    rfl
  obtain ⟨t, h, ht⟩ := skip_ends_at_last (s := s.skipBackward) (noReset_takeRst hl.noReset) rfl hpc'
    (skipBackward_bytes hl.code hpc) (fun k _ => hl.straight.reverse.scan_level hl.wf.2.2 (.inl rfl) k) hlast
  have hstart : (q + 1) % s.params.codeSize = q + 1 := Nat.mod_eq_of_lt (by omega)
  have hend := ht.pc
  rw [List.length_reverse, skipBackward_scanAddr hl.code hpc le_rfl, Nat.add_sub_cancel] at hend
  rw [List.length_reverse] at h
  exact ⟨t, ⟨_, henter, h⟩, ht.skipMode, hend.trans hstart⟩

/-- From `[` on a non-zero cell to the first `]`. -/
theorem first_close (hm : s.skipMode = .run) (hpc : s.pc = q) (hz : s.readTape s.ptr ≠ 0) :
    s.RunsTo (1 + body.length) (q + 1 + body.length) := by
  obtain ⟨t, h, htm, htpc⟩ := hl.enters hm hpc hz
  obtain ⟨u, h', hu⟩ := (hl.ticks h).runs_body_to htm htpc le_rfl
  exact ⟨u, ticks_add.2 ⟨t, h, h'⟩, hu⟩

/-- From one `]` to the next. -/
theorem next_close (hm : s.skipMode = .run) (hpc : s.pc = q + 1 + body.length) (hz : s.readTape s.ptr ≠ 0) :
    s.RunsTo (2 * body.length + 2) (q + 1 + body.length) := by
  obtain ⟨t, h, htm, htpc⟩ := hl.returns hm hpc hz
  obtain ⟨u, h', hu⟩ := (hl.ticks h).runs_body_to htm htpc le_rfl
  have hcount : 2 * body.length + 2 = body.length + 2 + body.length := by omega
  exact ⟨u, hcount ▸ ticks_add.2 ⟨t, h, h'⟩, hu⟩

/-- Every `]` of the loop's run, as long as the ones before it were executed on a non-zero cell. -/
theorem nth_close (hm : s.skipMode = .run) (hpc : s.pc = q) (hz : s.readTape s.ptr ≠ 0) {m : Nat}
    (hcells : ∀ i < m, ∀ t, Ticks (1 + body.length + i * (2 * body.length + 2)) s t → t.readTape t.ptr ≠ 0) :
    s.RunsTo (1 + body.length + m * (2 * body.length + 2)) (q + 1 + body.length) := by
  induction m with
  | zero => simpa using hl.first_close hm hpc hz
  | succ m ih =>
    obtain ⟨t, h, htm, htpc⟩ := ih fun i hi => hcells i (by omega)
    obtain ⟨u, h', hu⟩ := (hl.ticks h).next_close htm htpc (hcells m (by omega) t h)
    rw [Nat.succ_mul, ← Nat.add_assoc]
    exact ⟨u, ticks_add.2 ⟨t, h, h'⟩, hu⟩

end State.StraightLoop

/-- Settles O59: a zero cell skips the loop; otherwise the run goes from `]` to `]` until the `n`-th falls through. -/
theorem straightLoopCost : Obligations.StraightLoopCost := by
  intro s body n hmode hs hwf hm hcode hstraight
  have hl : s.StraightLoop s.pc body := ⟨hmode, hs, hwf, hcode, hstraight⟩
  refine ⟨hl.skips hm rfl, fun hz hn hcells hlast => ?_⟩
  have hclose (m : Nat) (hmn : m < n) := hl.nth_close hm rfl hz (m := m)
    fun i hi t h => hcells (i + 1) t (by omega) (by omega) h
  refine ⟨fun j _ hjn => hclose (j - 1) (by omega), ?_⟩
  obtain ⟨m, rfl⟩ := Nat.exists_eq_add_one.2 hn
  obtain ⟨t, h, htm, htpc⟩ := hclose m m.lt_succ_self
  obtain ⟨u, h', hu⟩ := (hl.ticks h).leaves htm htpc (hlast t h)
  have hcount : 2 * (m + 1) * body.length + 2 * (m + 1) =
      1 + body.length + m * (2 * body.length + 2) + 1 + body.length := by ring
  rw [hcount, Nat.add_sub_cancel, ← (ticks_keeps_params_store h).1]
  exact ⟨u, ticks_add.2 ⟨t, h, h'⟩, hu⟩

end Sys2Proof.Machine
end

section
/-! The model's representation of memories (log entry 13): the canonical form is determined by what it reads as. -/

namespace Sys2Proof.Machine

/-- Settles O45 by `Memory.wf.eq_of_read_eq`, the induction on the lists of pairs: memories that read alike have the same
first pair, since neither can list an address below the other's first, and tails that read alike. -/
theorem canonicalMemoriesReadingAlikeAreEqual : Obligations.CanonicalMemoriesReadingAlikeAreEqual :=
  fun _ _ h h' hread => h.eq_of_read_eq h' hread

end Sys2Proof.Machine
end
